-- ==== Sys2Proof/Word.lean ====
section
/-! DEFINITION. The bit-vector types of the block: the 32-bit data width, the byte, the 256-bit storage width of a
field element, and the index of a field-element register (spec 00_scope.md R9, R13). -/

namespace Sys2Proof

/-- The host data width `DW` and the width of a command word (00_scope.md R9, 30_encoding.md R80). -/
abbrev Word := BitVec 32

/-- A byte of a buffer (00_scope.md R13). -/
abbrev Byte := BitVec 8

/-- The storage width `ELEN` of a field-element register, and `KLEN` of the scalar register (00_scope.md R9). -/
abbrev Elem := BitVec 256

/-- The index of a field-element register: all sixteen values are legal (30_encoding.md R82). -/
abbrev Reg := Fin 16

/-- A byte buffer: 32 bytes by construction (00_scope.md R9 `BLEN`, 42_codec.md R139). -/
abbrev Buffer := Vector Byte 32

end Sys2Proof
end

