-- ==== Sys2Proof/Syntax.lean ====
section
/-! DEFINITION. The sixteen commands (spec 30_encoding.md R83), their opcodes and their forms (R81). -/

namespace Sys2Proof

/-- The commands of the block, one constructor per row of the opcode table (30_encoding.md R83). Register operands are
destination first, as in R85. -/
inductive Instr where
  | fadd (rd ra rb : Reg)
  | fsub (rd ra rb : Reg)
  | fmul (rd ra rb : Reg)
  | fpow (rd ra : Reg)
  | finv (rd ra : Reg)
  | decle
  | deck
  | decu (rd : Reg)
  | enc (ra : Reg)
  | ladd
  | lswap
  | ldbl
  | linit (ra : Reg)
  | lstep
  | ladder (ra : Reg)
  | x25519
  deriving DecidableEq, Repr

/-- The five operand forms of the one format (30_encoding.md R81). -/
inductive Form where
  | r3 | r2 | rd | ra | n
  deriving DecidableEq, Repr

/-- The sixteen assigned opcodes by name (30_encoding.md R83). -/
inductive Opcode where
  | fadd | fsub | fmul | fpow | finv | decle | deck | decu | enc
  | ladd | lswap | ldbl | linit | lstep | ladder | x25519
  deriving DecidableEq, Repr

/-- The opcode byte of each command (30_encoding.md R83). -/
def Opcode.code : Opcode → BitVec 8
  | .fadd => 0x10#8 | .fsub => 0x11#8 | .fmul => 0x12#8
  | .fpow => 0x20#8 | .finv => 0x21#8
  | .decle => 0x30#8 | .deck => 0x31#8 | .decu => 0x32#8 | .enc => 0x33#8
  | .ladd => 0x40#8 | .lswap => 0x41#8 | .ldbl => 0x42#8 | .linit => 0x43#8
  | .lstep => 0x44#8 | .ladder => 0x45#8 | .x25519 => 0x50#8

/-- The form of each command (30_encoding.md R81, R83). -/
def Opcode.form : Opcode → Form
  | .fadd | .fsub | .fmul => .r3
  | .fpow | .finv => .r2
  | .decu => .rd
  | .enc | .linit | .ladder => .ra
  | .decle | .deck | .ladd | .lswap | .ldbl | .lstep | .x25519 => .n

/-- All assigned opcodes, in the table's order. -/
def Opcode.all : List Opcode :=
  [.fadd, .fsub, .fmul, .fpow, .finv, .decle, .deck, .decu, .enc,
   .ladd, .lswap, .ldbl, .linit, .lstep, .ladder, .x25519]

/-- The opcode of a command. -/
def Instr.opcode : Instr → Opcode
  | .fadd _ _ _ => .fadd
  | .fsub _ _ _ => .fsub
  | .fmul _ _ _ => .fmul
  | .fpow _ _ => .fpow
  | .finv _ _ => .finv
  | .decle => .decle
  | .deck => .deck
  | .decu _ => .decu
  | .enc _ => .enc
  | .ladd => .ladd
  | .lswap => .lswap
  | .ldbl => .ldbl
  | .linit _ => .linit
  | .lstep => .lstep
  | .ladder _ => .ladder
  | .x25519 => .x25519

/-- The fields of the one 32-bit format (30_encoding.md R80). -/
structure Fields where
  op : BitVec 8
  rd : BitVec 4
  ra : BitVec 4
  rb : BitVec 4
  zero : BitVec 12
  deriving DecidableEq, Repr

end Sys2Proof
end

