-- ==== Sys2Proof/WellFormed.lean ====
section
/-! DEFINITION. When the fields of a command word are those of a command (spec 30_encoding.md R81, R82, R84): the opcode
is assigned and every field its form does not use is zero. A used register field may hold any of its sixteen values in
any combination (R82), which the type `Reg` of an `Instr` operand says, so no further check is left for `Instr`. -/

namespace Sys2Proof

/-- The "fields that must be 0" column of 30_encoding.md R81. -/
def Form.unusedZero (fm : Form) (x : Fields) : Bool :=
  match fm with
  | .r3 => x.zero == 0#12
  | .r2 => x.rb == 0#4 && x.zero == 0#12
  | .rd => x.ra == 0#4 && x.rb == 0#4 && x.zero == 0#12
  | .ra => x.rd == 0#4 && x.rb == 0#4 && x.zero == 0#12
  | .n => x.rd == 0#4 && x.ra == 0#4 && x.rb == 0#4 && x.zero == 0#12

/-- The assigned opcode with a given byte, if there is one (30_encoding.md R83). -/
def Opcode.ofCode? (c : BitVec 8) : Option Opcode :=
  Opcode.all.find? (fun o => o.code == c)

/-- The fields spell a command: not one of the illegal cases (a), (b), (c) of 30_encoding.md R84. -/
def Fields.wellFormed (x : Fields) : Bool :=
  match Opcode.ofCode? x.op with
  | none => false
  | some o => o.form.unusedZero x

/-- The fields a command is written with (30_encoding.md R80, R81, R85): the fields it does not use are zero. -/
def Instr.fields (i : Instr) : Fields :=
  let reg (r : Reg) : BitVec 4 := BitVec.ofFin r
  match i with
  | .fadd rd ra rb | .fsub rd ra rb | .fmul rd ra rb =>
      { op := i.opcode.code, rd := reg rd, ra := reg ra, rb := reg rb, zero := 0#12 }
  | .fpow rd ra | .finv rd ra =>
      { op := i.opcode.code, rd := reg rd, ra := reg ra, rb := 0#4, zero := 0#12 }
  | .decu rd => { op := i.opcode.code, rd := reg rd, ra := 0#4, rb := 0#4, zero := 0#12 }
  | .enc ra | .linit ra | .ladder ra =>
      { op := i.opcode.code, rd := 0#4, ra := reg ra, rb := 0#4, zero := 0#12 }
  | .decle | .deck | .ladd | .lswap | .ldbl | .lstep | .x25519 =>
      { op := i.opcode.code, rd := 0#4, ra := 0#4, rb := 0#4, zero := 0#12 }

/-- A command is well formed when its fields are (it always is: the operand type admits nothing else). -/
def Instr.wellFormed (i : Instr) : Bool := i.fields.wellFormed

end Sys2Proof
end

