-- ==== Sys2Proof/Decode.lean ====
section
/-! DEFINITION. The command decoder, total on 32-bit words, and the encoder (spec 30_encoding.md R80 to R85). -/

namespace Sys2Proof

/-- Why a word is illegal: the cases (a), (b), (c) of 30_encoding.md R84. Every one raises `IllegalCommand`. -/
inductive Reject where
  /-- (a) the opcode byte is unassigned -/
  | unassignedOpcode
  /-- (b) a bit of `zero[11:0]` is set -/
  | zeroFieldSet
  /-- (c) a register field the form does not use is not 0 -/
  | unusedFieldSet
  deriving DecidableEq, Repr

/-- The "mask of fixed bits" column of 30_encoding.md R81. -/
def Form.mask : Form → Word
  | .r3 => 0xFF000FFF#32
  | .r2 => 0xFF00FFFF#32
  | .rd => 0xFF0FFFFF#32
  | .ra => 0xFFF0FFFF#32
  | .n => 0xFFFFFFFF#32

/-- `match(c) = opcode(c) << 24` (30_encoding.md R81). -/
def Opcode.matchWord (o : Opcode) : Word := (o.code.zeroExtend 32) <<< 24

/-- `w[31:24]` (30_encoding.md R80). -/
def opField (w : Word) : BitVec 8 := w.extractLsb' 24 8

/-- `rd = w[23:20]`, used as it stands (30_encoding.md R82). -/
def rdField (w : Word) : Reg := (w.extractLsb' 20 4).toFin

/-- `ra = w[19:16]` (30_encoding.md R82). -/
def raField (w : Word) : Reg := (w.extractLsb' 16 4).toFin

/-- `rb = w[15:12]` (30_encoding.md R82). -/
def rbField (w : Word) : Reg := (w.extractLsb' 12 4).toFin

/-- Extract the fields the opcode's form uses (30_encoding.md R81, R82). -/
def assemble (o : Opcode) (w : Word) : Instr :=
  match o with
  | .fadd => .fadd (rdField w) (raField w) (rbField w)
  | .fsub => .fsub (rdField w) (raField w) (rbField w)
  | .fmul => .fmul (rdField w) (raField w) (rbField w)
  | .fpow => .fpow (rdField w) (raField w)
  | .finv => .finv (rdField w) (raField w)
  | .decle => .decle
  | .deck => .deck
  | .decu => .decu (rdField w)
  | .enc => .enc (raField w)
  | .ladd => .ladd
  | .lswap => .lswap
  | .ldbl => .ldbl
  | .linit => .linit (raField w)
  | .lstep => .lstep
  | .ladder => .ladder (raField w)
  | .x25519 => .x25519

/-- The decoder of 30_encoding.md R83: the opcode byte first, then `w & mask = match` of its row, then the used fields.
It depends on the word alone, in every state (R80). -/
def decode (w : Word) : Except Reject Instr :=
  match Opcode.ofCode? (opField w) with
  | none => .error .unassignedOpcode
  | some o =>
    if w &&& o.form.mask = o.matchWord then .ok (assemble o w)
    else if w &&& 0xFFF#32 = 0#32 then .error .unusedFieldSet
    else .error .zeroFieldSet

/-- The fields laid out in the word (30_encoding.md R80). -/
def Fields.word (x : Fields) : Word := x.op ++ x.rd ++ x.ra ++ x.rb ++ x.zero

/-- The encoder: the word of a command (30_encoding.md R85). -/
def encode (i : Instr) : Word := i.fields.word

/-- What the decoder reads from a command whose bits are `w`, numbered as spec/opcode_table.json numbers them. A command
is one 32-bit word (30_encoding.md R80), so `w` is that word, its bits above `nbits` zero; no wider word exists. -/
def decodeTableWord (nbits w : Nat) : Option Instr :=
  if w % 2 ^ nbits < 2 ^ 32 then (decode (BitVec.ofNat 32 (w % 2 ^ nbits))).toOption else none

end Sys2Proof
end

