-- ==== Sys2Proof/Config.lean ====
section
/-! DEFINITION. The constants of the block and its open parameters (spec 00_scope.md R6 to R9, 10_state.md R40, R42). -/

namespace Sys2Proof

/-- The parameters of the pure functions (00_scope.md R8): the field prime and the ladder constant. -/
structure Curve where
  /-- the field prime -/
  p : Nat
  /-- the ladder constant `(A + 2) / 4` -/
  a24 : Nat
  deriving DecidableEq, Repr

namespace Config

/-- The hardwired field prime `P = 2^255 − 19` (00_scope.md R6). -/
def P : Nat := 2 ^ 255 - 19

/-- The Montgomery coefficient of Curve25519; an operand of nothing (00_scope.md R7). -/
def A : Nat := 486662

/-- The hardwired ladder constant (00_scope.md R7, 90_conflicts.md C1). -/
def A24 : Nat := 121666

/-- The one instance `(P, A24)` the hardware has (00_scope.md R8). -/
def curve : Curve := { p := P, a24 := A24 }

/-- Ladder iterations `NBITS` (00_scope.md R9). -/
def nbits : Nat := 255

/-- The identification word (10_state.md R42). -/
def idWord : Word := 0x25519007#32

/-- FREE VALUE: the busy time of a command beyond its first clock cycle, a function of the opcode byte alone
(00_scope.md R9 `LAT`, 70_reset_and_hazards.md R247). It has no body, so nothing can depend on a number of cycles.
Safe, log entry 6. -/
opaque extraCycles : BitVec 8 → Nat

/-- `LAT(opcode) ≥ 1` clock cycles (00_scope.md R9, 70_reset_and_hazards.md R244). No step of the model reads it: the
model has no clock and the schedule says where `Complete` falls. -/
def lat (opcode : BitVec 8) : Nat := extraCycles opcode + 1

end Config

end Sys2Proof
end

