-- ==== Sys2Proof/Machine/CodecFunctions.lean ====
section
/-! DEFINITION. The pure functions of the codec: byte order, clamping, masking (spec 42_codec.md R130 to R134,
00_scope.md R14). -/

namespace Sys2Proof.Machine

/-- A list of bytes as a little-endian unsigned integer: byte `j` has weight `2^(8j)` (00_scope.md R14, R130). -/
def leBytes : List Byte → Nat
  | [] => 0
  | b :: bs => b.toNat + 2 ^ 8 * leBytes bs

/-- `le(B) = decode_little_endian(B)` of a 32-byte buffer (R130). -/
def le (b : Buffer) : Nat := leBytes b.toList

/-- `clamp(n)`: bits 0, 1, 2 and 255 cleared, bit 254 set (R131). -/
def clamp (n : Nat) : Nat := 2 ^ 254 + (n % 2 ^ 254 - n % 8)

/-- `decode_scalar(B) = clamp(le(B))`, not reduced modulo anything (R132). -/
def decodeScalar (b : Buffer) : Nat := clamp (le b)

/-- `decode_u(B) = (le(B) mod 2^255) mod p`: masked, then reduced (R133). -/
def decodeU (c : Curve) (b : Buffer) : Nat := le b % 2 ^ 255 % c.p

/-- Byte `j` of an integer: `(x >> 8j) & 0xFF` (R134). -/
def byteOf (x j : Nat) : Byte := BitVec.ofNat 8 (x >>> (8 * j))

/-- `encode(x) = bytes_le(x)`: 32 little-endian bytes (R134, 00_scope.md R14). -/
def encodeBytes (x : Nat) : Buffer :=
  ⟨((List.range 32).map (byteOf x)).toArray, by simp⟩

end Sys2Proof.Machine
end

