-- ==== Sys2Proof/Machine/State.lean ====
section
/-! DEFINITION. The state of the block and of the host's side of its port, as plain data (spec 10_state.md R20), the
names of the command faults, transactions and responses, the reasons a step can stop, and the state after reset
(R44 to R46). -/

namespace Sys2Proof.Machine

/-- The four command faults (60_exceptions.md R200). They are the block's exceptions: taking one is a NEXT state (R202),
never a stop of the model. -/
inductive CmdFault where
  | illegalCommand
  | invalidInputLength
  | uninitialisedOperand
  | ladderSequence
  deriving DecidableEq, Repr

/-- The answer to a host transaction (20_memory.md R50): `OKAY`, `OKAY` with the value read, or `ERROR`, which carries no
data. -/
inductive Response where
  | okay
  | okayRead (v : Word)
  | error
  deriving DecidableEq, Repr

/-- What may happen next at the block: a host transaction, the reset line, or the sequencer's turn (00_scope.md R11,
20_memory.md R50, 70_reset_and_hazards.md R230). A written value has 8n bits; the bits of `v` above them are not looked
at (log entry 8). -/
inductive Event where
  /-- `MemRead(addr, n)` -/
  | read (addr n : Nat)
  /-- `MemWrite(addr, n, v)` -/
  | write (addr n : Nat) (v : Word)
  /-- the reset input is asserted -/
  | resetLine
  /-- the sequencer takes its step `Complete` here, if it is enabled -/
  | complete
  deriving DecidableEq, Repr

/-- The state: the eighteen components of 10_state.md R20 under the spec's names in small letters, then the two fields of
the host's side of the port, which are the model's own (log entries 3 and 4). -/
structure State where
  /-- `F[0..15]`, the field-element registers (R21) -/
  f : Vector Elem 16
  /-- `FV[0..15]`, their valid bits (R23) -/
  fv : Vector Bool 16
  /-- `K`, the scalar register (R25) -/
  k : Elem
  /-- `KV`, its valid bit (R25) -/
  kv : Bool
  /-- `KBUF[0..31]`, the scalar input bytes (R26) -/
  kbuf : Buffer
  /-- `KBV[0..31]` (R26) -/
  kbv : Vector Bool 32
  /-- `UBUF[0..31]`, the u-coordinate input bytes (R27) -/
  ubuf : Buffer
  /-- `UBV[0..31]` (R27) -/
  ubv : Vector Bool 32
  /-- `OBUF[0..31]`, the output bytes (R28) -/
  obuf : Buffer
  /-- `OV`, the valid bit of `OBUF` as a whole (R28) -/
  ov : Bool
  /-- `LCNT`, ladder iterations remaining (R29) -/
  lcnt : BitVec 8
  /-- `BUSY` (R32) -/
  busy : Bool
  /-- `DONE` (R32) -/
  done : Bool
  /-- `ERR` (R32) -/
  err : Bool
  /-- `IE` (R32) -/
  ie : Bool
  /-- `ECODE`: one of the four faults, or none (R32, 93_implementation_defined.md I14) -/
  ecode : Option CmdFault
  /-- `EINFO`, the command word of the last fault (R33) -/
  einfo : Word
  /-- `CUR`, the command in execution; meaningful only while `BUSY = 1` (R31) -/
  cur : Word
  /-- the events still to come, the first of them next: which agent moves when is data (log entry 3) -/
  sched : List Event
  /-- the responses given so far, the newest first (log entry 4) -/
  answers : List Response
  deriving DecidableEq, Repr

/-- Why the model stops with a fault. -/
inductive Fault where
  /-- Raised by the sequencer alone, when `Complete` is taken while `CUR` holds no command. No run reaches it: `CUR` is
  written only with a word that decodes (10_state.md R31). Safe: the model stops where the spec describes no machine. -/
  | curNotACommand
  deriving DecidableEq, Repr

/-- Why the model refuses. -/
inductive Refusal where
  /-- An instruction with no meaning yet, named by its mnemonic. No arm answers with it: every command has its meaning.
  Safe. -/
  | notModelled (mnemonic : String)
  deriving DecidableEq, Repr

/-- The answer of a step. -/
abbrev Result := Host.Outcome State Fault Refusal

/-- The reset state (10_state.md R44 to R46): every flag and valid bit 0, `LCNT`, `ECODE` and `EINFO` 0. The spec leaves the
data contents open ("any values", unobservable); the zeros here stand behind valid bits that are 0 (log entry 1,
DESIGN CHOICE). `CUR` is irrelevant while `BUSY = 0` (log entry 2, DESIGN CHOICE). The host has issued nothing. -/
def State.reset : State where
  f := Vector.replicate 16 0#256
  fv := Vector.replicate 16 false
  k := 0#256
  kv := false
  kbuf := Vector.replicate 32 0#8
  kbv := Vector.replicate 32 false
  ubuf := Vector.replicate 32 0#8
  ubv := Vector.replicate 32 false
  obuf := Vector.replicate 32 0#8
  ov := false
  lcnt := 0#8
  busy := false
  done := false
  err := false
  ie := false
  ecode := none
  einfo := 0#32
  cur := 0#32
  sched := []
  answers := []

end Sys2Proof.Machine
end

