-- ==== Sys2Proof/Machine/Flags.lean ====
section
/-! DEFINITION. The derived flags, the register words the host reads, and the interrupt output (spec 10_state.md R26,
R27, R32, R35 to R37, R47). There are no condition codes: no command's result depends on a flag (R32). -/

namespace Sys2Proof.Machine

/-- `KBFULL`: all 32 bytes of `KBUF` are valid (R26). -/
def State.kbFull (s : State) : Bool := s.kbv.toList.all id

/-- `UBFULL`: all 32 bytes of `UBUF` are valid (R27). -/
def State.ubFull (s : State) : Bool := s.ubv.toList.all id

/-- The code a fault leaves in `ECODE`; 0 is "no fault" (60_exceptions.md R200). -/
def faultCode : Option CmdFault → BitVec 4
  | none => 0#4
  | some .illegalCommand => 1#4
  | some .invalidInputLength => 2#4
  | some .uninitialisedOperand => 3#4
  | some .ladderSequence => 4#4

/-- The `STATUS` word, from bit 31 down to bit 0 (R35). -/
def State.statusWord (s : State) : Word :=
  (0#12 ++ faultCode s.ecode ++ s.lcnt ++ 0#1 ++ BitVec.ofBool s.ubFull ++ BitVec.ofBool s.kbFull ++
    BitVec.ofBool s.kv ++ BitVec.ofBool s.ov ++ BitVec.ofBool s.err ++ BitVec.ofBool s.done ++
    BitVec.ofBool s.busy : BitVec 32)

/-- What a read of `CTRL` returns: `zext_32(IE)` (R36). -/
def State.ctrlWord (s : State) : Word := (BitVec.ofBool s.ie).zeroExtend 32

/-- The `FVALID` word: bit `i` is `FV[i]`, bits 31:16 read 0 (R37). -/
def State.fvalidWord (s : State) : Word := (BitVec.ofBoolListLE s.fv.toList).zeroExtend 32

/-- The interrupt output, a level: `irq = IE ∧ DONE` (R47, 60_exceptions.md R211). -/
def State.irq (s : State) : Bool := s.ie && s.done

end Sys2Proof.Machine
end

