-- ==== Sys2Proof/Machine/FieldFunctions.lean ====
section
/-! DEFINITION. The pure functions of the field arithmetic unit and of the inverter, over the parameters of a curve
(spec 40_field_arithmetic.md R100 to R102, 41_inverter.md R120, R121, 00_scope.md R8). Field elements are exact naturals
here; a register stores the result. -/

namespace Sys2Proof.Machine

/-- `fadd(a, b) = (a + b) mod p` (R100). -/
def fadd (c : Curve) (a b : Nat) : Nat := (a + b) % c.p

/-- `fsub(a, b) = (a − b) mod p`, the residue in [0, p) (R101). The borrow is paid in advance: `p − b` for a reduced `b`. -/
def fsub (c : Curve) (a b : Nat) : Nat := (a + (c.p - b % c.p)) % c.p

/-- `fmul(a, b) = (a · b) mod p`, reduced at once (R102). -/
def fmul (c : Curve) (a b : Nat) : Nat := a * b % c.p

/-- The left-to-right binary method of R120, for the bits `n − 1` down to 0 of the exponent: one squaring per bit and one
multiplication per set bit. -/
@[irreducible] def fpowLoop (c : Curve) (x e : Nat) : Nat → Nat → Nat
  | 0, acc => acc
  | n + 1, acc =>
    fpowLoop c x e n
      (if e.testBit n then fmul c (fmul c acc acc) x else fmul c acc acc)

/-- `fpow(x, e) = x^e mod p` for a 256-bit exponent that is not reduced; `fpow(x, 0) = 1` for every `x` (R120). -/
def fpow (c : Curve) (x e : Nat) : Nat := fpowLoop c x e 256 1

/-- `finv(x) = fpow(x, p − 2)`, which is 0 for 0 (R121). -/
def finv (c : Curve) (x : Nat) : Nat := fpow c x (c.p - 2)

end Sys2Proof.Machine
end

