-- ==== Sys2Proof/Machine/LadderFunctions.lean ====
section
/-! DEFINITION. The pure functions of the Montgomery ladder, over the parameters of a curve (spec 43_ladder.md R150 to
R155). -/

namespace Sys2Proof.Machine

/-- A projective point `(X, Z)` (00_scope.md glossary). -/
structure Point where
  x : Nat
  z : Nat
  deriving DecidableEq, Repr

/-- `sel(a, c, b) = a·(1−b) + c·b`, the arithmetic selection (R150). -/
def sel (cv : Curve) (a c b : Nat) : Nat :=
  fadd cv (fmul cv a (fsub cv 1 b)) (fmul cv c b)

/-- `cswap` by four selections of the values before the swap (R151). -/
def cswap (cv : Curve) (p q : Point) (b : Nat) : Point × Point :=
  (⟨sel cv p.x q.x b, sel cv p.z q.z b⟩, ⟨sel cv q.x p.x b, sel cv q.z p.z b⟩)

/-- Doubling with the constant `a24` (R152). -/
def xDbl (cv : Curve) (p : Point) : Point :=
  let a := fadd cv p.x p.z
  let aa := fmul cv a a
  let b := fsub cv p.x p.z
  let bb := fmul cv b b
  let e := fsub cv aa bb
  ⟨fmul cv aa bb, fmul cv e (fadd cv bb (fmul cv cv.a24 e))⟩

/-- Differential addition; `u` is the affine difference (R153). -/
def xAdd (cv : Curve) (p q : Point) (u : Nat) : Point :=
  let a := fadd cv p.x p.z
  let b := fsub cv p.x p.z
  let c := fadd cv q.x q.z
  let d := fsub cv q.x q.z
  let da := fmul cv d a
  let cb := fmul cv c b
  let s := fadd cv da cb
  let t := fsub cv da cb
  ⟨fmul cv s s, fmul cv u (fmul cv t t)⟩

/-- Bit `i` of the scalar as the field element 0 or 1 (R150, R155 step (a)). -/
def scalarBit (k i : Nat) : Nat := (k.testBit i).toNat

/-- One iteration, steps (b) to (e) in the source's order (R154). -/
def ladderStep (cv : Curve) (r0 r1 : Point) (u b : Nat) : Point × Point :=
  let t := xAdd cv r0 r1 u
  let swapped := cswap cv r0 r1 b
  cswap cv (xDbl cv swapped.1) t b

/-- The iterations for the bits `n − 1` down to 0 of `k` (R155). -/
@[irreducible] def ladderLoop (cv : Curve) (k u : Nat) : Nat → Point × Point → Point × Point
  | 0, r => r
  | n + 1, r => ladderLoop cv k u n (ladderStep cv r.1 r.2 u (scalarBit k n))

/-- `ladder(k, u)`: 255 iterations from `r0 = (1, 0)`, `r1 = (u, 1)`; the result is the final `r0` (R155). -/
def ladder (cv : Curve) (k u : Nat) : Point :=
  (ladderLoop cv k u Config.nbits (⟨1, 0⟩, ⟨u, 1⟩)).1

end Sys2Proof.Machine
end

