-- ==== Sys2Proof/Machine/Ops.lean ====
section
/-! DEFINITION. The named operations over the state: registers, buffers, taking a command fault and the return from it,
acceptance and completion of a command, reset (spec 00_scope.md R14, 10_state.md R36, 20_memory.md R53, 60_exceptions.md
R201 to R204, 70_reset_and_hazards.md R230). -/

namespace Sys2Proof.Machine

/-! ## Registers -/

/-- `F[i]` as an integer (00_scope.md R14). -/
def State.reg (s : State) (i : Reg) : Nat := (s.f[i]).toNat

/-- `F[i] <- v`, which sets `FV[i] <- 1` (00_scope.md R14, 10_state.md R23). -/
def State.setReg (s : State) (i : Reg) (v : Nat) : State :=
  { s with f := s.f.set i (BitVec.ofNat 256 v), fv := s.fv.set i true }

/-- `K <- v`, which sets `KV <- 1` (00_scope.md R14, 10_state.md R25). -/
def State.setK (s : State) (v : Nat) : State := { s with k := BitVec.ofNat 256 v, kv := true }

/-- `OBUF[0..31] <- b; OV <- 1` (42_codec.md R138). -/
def State.setObuf (s : State) (b : Buffer) : State := { s with obuf := b, ov := true }

/-- The projective point held in two registers. -/
def State.point (s : State) (x z : Reg) : Point := ⟨s.reg x, s.reg z⟩

/-- Write a projective point to two registers. -/
def State.setPoint (s : State) (x z : Reg) (p : Point) : State := (s.setReg x p.x).setReg z p.z

/-! The architected aliases of `F[8]` to `F[15]` (10_state.md R22). -/

/-- `R0X` -/
abbrev R0X : Reg := 8
/-- `R0Z` -/
abbrev R0Z : Reg := 9
/-- `R1X` -/
abbrev R1X : Reg := 10
/-- `R1Z` -/
abbrev R1Z : Reg := 11
/-- `BU` -/
abbrev BU : Reg := 12
/-- `TX` -/
abbrev TX : Reg := 13
/-- `TZ` -/
abbrev TZ : Reg := 14
/-- `RES` -/
abbrev RES : Reg := 15

/-! ## The host's side of the port -/

/-- Record the block's answer to a transaction (20_memory.md R50). -/
def State.answer (s : State) (r : Response) : State := { s with answers := r :: s.answers }

/-- Store one byte at a buffer address: `KBUF` below 0x20, `UBUF` from 0x20 (20_memory.md R53). -/
def State.storeByte (s : State) (a : Nat) (b : Byte) : State :=
  if a < 0x20 then { s with kbuf := s.kbuf.setIfInBounds a b, kbv := s.kbv.setIfInBounds a true }
  else
    { s with
      ubuf := s.ubuf.setIfInBounds (a - 0x20) b
      ubv := s.ubv.setIfInBounds (a - 0x20) true }

/-- The byte at address `addr + i` is `v[8i+7 : 8i]`, for `i = 0 .. n−1` (20_memory.md R53, R56). -/
def State.storeBytes (s : State) (addr : Nat) (v : Word) : Nat → State
  | 0 => s
  | n + 1 => (s.storeBytes addr v n).storeByte (addr + n) (byteOf v.toNat n)

/-- The value of `n` bytes of `OBUF` from index `j`, least significant first (20_memory.md R55). -/
def State.loadBytes (s : State) (j n : Nat) : Word :=
  BitVec.ofNat 32 (leBytes ((s.obuf.toList.drop j).take n))

/-- Reset, by the reset input or by `CTRL.SRST`: the whole block is in the reset state, and a command in execution is
discarded with none of its effect (10_state.md R44, 70_reset_and_hazards.md R230, R231). The host's side of the port is not
the block's and stays. -/
def State.resetBlock (s : State) : State :=
  { State.reset with sched := s.sched, answers := s.answers }

/-! ## Taking a command fault, and the return from it -/

/-- Fault entry `raise f(w)`: exactly `ERR <- 1; ECODE <- code(f); EINFO <- w; DONE <- 1; OV <- 0` (60_exceptions.md R202). -/
def State.raise (s : State) (f : CmdFault) (w : Word) : State :=
  { s with err := true, ecode := some f, einfo := w, done := true, ov := false }

/-- The return from the faulted state, `CTRL.CLRERR`: it does nothing while `BUSY = 1` (60_exceptions.md R204,
10_state.md R36). -/
def State.clearError (s : State) : State :=
  if s.busy then s else { s with err := false, ecode := none }

/-- A write of `CTRL` (10_state.md R36): `SRST` overrides the other bits of the write. -/
def State.writeCtrl (s : State) (v : Word) : State :=
  if v.getLsbD 31 then s.resetBlock
  else
    let s := { s with ie := v.getLsbD 0 }
    let s := if v.getLsbD 1 then { s with done := false } else s
    if v.getLsbD 2 then s.clearError else s

/-! ## The life of a command -/

/-- Acceptance: `CUR <- w; BUSY <- 1; DONE <- 0` (60_exceptions.md R201). -/
def State.accept (s : State) (w : Word) : State := { s with cur := w, busy := true, done := false }

/-- The end of `Complete`: `BUSY <- 0; DONE <- 1` (60_exceptions.md R203). -/
def State.finish (s : State) : State := { s with busy := false, done := true }

end Sys2Proof.Machine
end

