-- ==== Sys2Proof/Machine/Operands.lean ====
section
/-! DEFINITION. What each command needs of the state when its word is written, the checks in their fixed order, and the
life of a command over them (spec 60_exceptions.md R201, R203, R205, R212). -/

namespace Sys2Proof.Machine

/-- What a command needs to be accepted: the columns 2 to 4 of the table of 60_exceptions.md R205. -/
structure Needs where
  /-- `KBFULL` -/
  kbuf : Bool := false
  /-- `UBFULL` -/
  ubuf : Bool := false
  /-- the registers whose `FV` must be 1 -/
  regs : List Reg := []
  /-- `KV` -/
  k : Bool := false
  /-- `LCNT ≠ 0` -/
  bit : Bool := false
  deriving DecidableEq, Repr

/-- The table of 60_exceptions.md R205, row by row. Destination registers are never checked. -/
def needs : Instr → Needs
  | .fadd _ ra rb => { regs := [ra, rb] }
  | .fsub _ ra rb => { regs := [ra, rb] }
  | .fmul _ ra rb => { regs := [ra, rb] }
  | .fpow _ ra => { regs := [ra], k := true }
  | .finv _ ra => { regs := [ra] }
  | .decle => { kbuf := true }
  | .deck => { kbuf := true }
  | .decu _ => { ubuf := true }
  | .enc ra => { regs := [ra] }
  | .ladd => { regs := [R0X, R0Z, R1X, R1Z, BU] }
  | .lswap => { regs := [R0X, R0Z, R1X, R1Z], k := true, bit := true }
  | .ldbl => { regs := [R0X, R0Z, TX, TZ] }
  | .linit ra => { regs := [ra] }
  | .lstep => { regs := [R0X, R0Z, R1X, R1Z, BU], k := true, bit := true }
  | .ladder ra => { regs := [ra], k := true }
  | .x25519 => { kbuf := true, ubuf := true }

/-- The checks after decoding, the first that fails deciding: length, uninitialised, sequence (60_exceptions.md R205,
R212). They look at valid bits and `LCNT` only. -/
def checkNeeds (n : Needs) (s : State) : Option CmdFault :=
  if (n.kbuf && !s.kbFull) || (n.ubuf && !s.ubFull) then some .invalidInputLength
  else if !(n.regs.all fun r => s.fv[r]) || (n.k && !s.kv) then some .uninitialisedOperand
  else if n.bit && s.lcnt == 0#8 then some .ladderSequence
  else none

/-- The fault a decoded command raises in a state, if any (60_exceptions.md R205). -/
def check (i : Instr) (s : State) : Option CmdFault := checkNeeds (needs i) s

/-- The whole `check(w)` of 60_exceptions.md R205: an illegal word first. -/
def checkWord (w : Word) (s : State) : Option CmdFault :=
  match decode w with
  | .error _ => some .illegalCommand
  | .ok i => check i s

/-- The `CMD` write of a decoded command, `BUSY = 0` (60_exceptions.md R201): it faults with no effect of its own, or it is
accepted and waits for `Complete`. -/
def issue (i : Instr) (s : State) : State :=
  match check i s with
  | some f => s.raise f (encode i)
  | none => s.accept (encode i)

/-- The next move in the life of a command (60_exceptions.md R201, R203): while `BUSY = 0` its word is being written to
`CMD`, and the checks decide; while `BUSY = 1` the sequencer completes it, applying its effect as one atomic change. -/
def life (i : Instr) (effect : State → State) (s : State) : Result :=
  if s.busy then .next (effect s).finish else .next (issue i s)

end Sys2Proof.Machine
end

