-- ==== Sys2Proof/Machine/Codec.lean ====
section
/-! DEFINITION. The codec unit: DECLE, DECK, DECU, ENC (spec 42_codec.md R135 to R138). -/

namespace Sys2Proof.Machine

/-- `K <- le(KBUF)`: no clamping, no masking, no reduction (R135). -/
def effDecle (s : State) : State := s.setK (le s.kbuf)

/-- DECLE (R135). -/
def execDecle (s : State) : Result := life .decle effDecle s

/-- `K <- clamp(le(KBUF))` (R136). -/
def effDeck (s : State) : State := s.setK (decodeScalar s.kbuf)

/-- DECK (R136). -/
def execDeck (s : State) : Result := life .deck effDeck s

/-- `F[rd] <- decode_u(UBUF)` (R137). -/
def effDecu (rd : Reg) (s : State) : State := s.setReg rd (decodeU Config.curve s.ubuf)

/-- DECU (R137). -/
def execDecu (rd : Reg) (s : State) : Result := life (.decu rd) (effDecu rd) s

/-- `OBUF[0..31] <- encode(F[ra]); OV <- 1` (R138). -/
def effEnc (ra : Reg) (s : State) : State := s.setObuf (encodeBytes (s.reg ra))

/-- ENC (R138). -/
def execEnc (ra : Reg) (s : State) : Result := life (.enc ra) (effEnc ra) s

end Sys2Proof.Machine
end

