-- ==== Sys2Proof/Machine/Inverter.lean ====
section
/-! DEFINITION. The inverter unit: FPOW, FINV (spec 41_inverter.md R122, R123). -/

namespace Sys2Proof.Machine

/-- `F[rd] <- fpow(F[ra], K)`, the exponent all 256 bits of `K` (R122). -/
def effFpow (rd ra : Reg) (s : State) : State :=
  s.setReg rd (fpow Config.curve (s.reg ra) s.k.toNat)

/-- FPOW (R122). -/
def execFpow (rd ra : Reg) (s : State) : Result := life (.fpow rd ra) (effFpow rd ra) s

/-- `F[rd] <- finv(F[ra])`; `K` is neither read nor written (R123). -/
def effFinv (rd ra : Reg) (s : State) : State :=
  s.setReg rd (finv Config.curve (s.reg ra))

/-- FINV (R123). -/
def execFinv (rd ra : Reg) (s : State) : Result := life (.finv rd ra) (effFinv rd ra) s

end Sys2Proof.Machine
end

