-- ==== Sys2Proof/Machine/Ladder.lean ====
section
/-! DEFINITION. The ladder unit: LADD, LSWAP, LDBL, LINIT, LSTEP, LADDER (spec 43_ladder.md R160 to R165). -/

namespace Sys2Proof.Machine

/-- `r0 = (R0X, R0Z)`. -/
def State.r0 (s : State) : Point := s.point R0X R0Z

/-- `r1 = (R1X, R1Z)`. -/
def State.r1 (s : State) : Point := s.point R1X R1Z

/-- `t = (TX, TZ)`. -/
def State.t (s : State) : Point := s.point TX TZ

/-- Write `r0` and `r1`. -/
def State.setR01 (s : State) (r : Point × Point) : State :=
  (s.setPoint R0X R0Z r.1).setPoint R1X R1Z r.2

/-- The current scalar bit, `K[LCNT − 1]` (10_state.md R29, R161). -/
def State.currentBit (s : State) : Nat := scalarBit s.k.toNat (s.lcnt.toNat - 1)

/-- `(TX, TZ) <- x_add(r0, r1, BU)` (R160). -/
def effLadd (s : State) : State := s.setPoint TX TZ (xAdd Config.curve s.r0 s.r1 (s.reg BU))

/-- LADD (R160). -/
def execLadd (s : State) : Result := life .ladd effLadd s

/-- `(r0, r1) <- cswap(r0, r1, K[LCNT − 1])`; `LCNT` stays (R161). -/
def effLswap (s : State) : State := s.setR01 (cswap Config.curve s.r0 s.r1 s.currentBit)

/-- LSWAP (R161). -/
def execLswap (s : State) : Result := life .lswap effLswap s

/-- `r0 <- x_dbl(r0); r1 <- t`, both reading the state before the command (R162). -/
def effLdbl (s : State) : State := s.setR01 (xDbl Config.curve s.r0, s.t)

/-- LDBL (R162). -/
def execLdbl (s : State) : Result := life .ldbl effLdbl s

/-- `r0 <- (1, 0); r1 <- (u, 1); BU <- u; LCNT <- 255` with `u = F[ra]` read first (R163). -/
def effLinit (ra : Reg) (s : State) : State :=
  let u := s.reg ra
  { (s.setR01 (⟨1, 0⟩, ⟨u, 1⟩)).setReg BU u with lcnt := 255#8 }

/-- LINIT (R163). -/
def execLinit (ra : Reg) (s : State) : Result := life (.linit ra) (effLinit ra) s

/-- One iteration with bit `LCNT − 1`, its `t` into `(TX, TZ)`, then `LCNT <- LCNT − 1` (R164). -/
def effLstep (s : State) : State :=
  let t := xAdd Config.curve s.r0 s.r1 (s.reg BU)
  let r := ladderStep Config.curve s.r0 s.r1 (s.reg BU) s.currentBit
  { (s.setR01 r).setPoint TX TZ t with lcnt := s.lcnt - 1#8 }

/-- LSTEP (R164). -/
def execLstep (s : State) : Result := life .lstep effLstep s

/-- `n` iterations of LSTEP. -/
@[irreducible] def repeatLstep : Nat → State → State
  | 0, s => s
  | n + 1, s => repeatLstep n (effLstep s)

/-- `LINIT Fa`, then 255 times LSTEP (R165). -/
def effLadder (ra : Reg) (s : State) : State := repeatLstep Config.nbits (effLinit ra s)

/-- LADDER (R165). -/
def execLadder (ra : Reg) (s : State) : Result := life (.ladder ra) (effLadder ra) s

end Sys2Proof.Machine
end

