-- ==== Sys2Proof/Machine/Multiplier.lean ====
section
/-! DEFINITION. The field arithmetic unit: FADD, FSUB, FMUL (spec 40_field_arithmetic.md R105 to R108). -/

namespace Sys2Proof.Machine

/-- `F[rd] <- fadd(F[ra], F[rb])` (R105). -/
def effFadd (rd ra rb : Reg) (s : State) : State :=
  s.setReg rd (fadd Config.curve (s.reg ra) (s.reg rb))

/-- FADD (R105, R108). -/
def execFadd (rd ra rb : Reg) (s : State) : Result := life (.fadd rd ra rb) (effFadd rd ra rb) s

/-- `F[rd] <- fsub(F[ra], F[rb])`: the minuend is `F[ra]` (R106). -/
def effFsub (rd ra rb : Reg) (s : State) : State :=
  s.setReg rd (fsub Config.curve (s.reg ra) (s.reg rb))

/-- FSUB (R106, R108). -/
def execFsub (rd ra rb : Reg) (s : State) : Result := life (.fsub rd ra rb) (effFsub rd ra rb) s

/-- `F[rd] <- fmul(F[ra], F[rb])` (R107). -/
def effFmul (rd ra rb : Reg) (s : State) : State :=
  s.setReg rd (fmul Config.curve (s.reg ra) (s.reg rb))

/-- FMUL (R107, R108). -/
def execFmul (rd ra rb : Reg) (s : State) : Result := life (.fmul rd ra rb) (effFmul rd ra rb) s

end Sys2Proof.Machine
end

