-- ==== Sys2Proof/Machine/Api.lean ====
section
/-! DEFINITION. The sequencer's composite command X25519 (spec 44_x25519.md R180). -/

namespace Sys2Proof.Machine

/-- The four steps of R180 as one change: decode the scalar and the u-coordinate, the ladder, the conversion to the affine
value, encode. -/
def effX25519 (s : State) : State :=
  let s := effDeck s
  let s := effDecu BU s
  let s := effLadder BU s
  let s := effFinv RES R0Z s
  let s := effFmul RES R0X RES s
  effEnc RES s

/-- X25519 (R180). -/
def execX25519 (s : State) : Result := life .x25519 effX25519 s

end Sys2Proof.Machine
end

