-- ==== Sys2Proof/Machine/Dispatch.lean ====
section
/-! DEFINITION. The meaning of every command: its move at the `CMD` write or at completion (spec 60_exceptions.md R201, R203). -/

namespace Sys2Proof.Machine

/-- One arm per command, each a direct call of its meaning. -/
def exec (i : Instr) (s : State) : Host.Outcome State Fault Refusal :=
  match i with
  | .fadd rd ra rb => Sys2Proof.Machine.execFadd rd ra rb s
  | .fsub rd ra rb => Sys2Proof.Machine.execFsub rd ra rb s
  | .fmul rd ra rb => Sys2Proof.Machine.execFmul rd ra rb s
  | .fpow rd ra => Sys2Proof.Machine.execFpow rd ra s
  | .finv rd ra => Sys2Proof.Machine.execFinv rd ra s
  | .decle => Sys2Proof.Machine.execDecle s
  | .deck => Sys2Proof.Machine.execDeck s
  | .decu rd => Sys2Proof.Machine.execDecu rd s
  | .enc ra => Sys2Proof.Machine.execEnc ra s
  | .ladd => Sys2Proof.Machine.execLadd s
  | .lswap => Sys2Proof.Machine.execLswap s
  | .ldbl => Sys2Proof.Machine.execLdbl s
  | .linit ra => Sys2Proof.Machine.execLinit ra s
  | .lstep => Sys2Proof.Machine.execLstep s
  | .ladder ra => Sys2Proof.Machine.execLadder ra s
  | .x25519 => Sys2Proof.Machine.execX25519 s

end Sys2Proof.Machine
end

