-- ==== Sys2Proof/Machine/Port.lean ====
section
/-! DEFINITION. The host port: the read and write procedures, the sequencer's step, and which of them moves next (spec
20_memory.md R50 to R62, 60_exceptions.md R201, R203, 00_scope.md R11, R12). -/

namespace Sys2Proof.Machine

/-- Line 1 of the procedures: `n` is 1, 2 or 4 and `addr` a multiple of it (20_memory.md R58). -/
def legalAccess (addr n : Nat) : Bool := (n == 1 || n == 2 || n == 4) && addr % n == 0

/-- `MemRead(addr, n)`, the first matching line decides (20_memory.md R62, R55). -/
def memRead (addr n : Nat) (s : State) : Response :=
  if !legalAccess addr n then .error
  else if 0x40 ≤ addr ∧ addr < 0x60 then
    if s.busy || !s.ov then .error else .okayRead (s.loadBytes (addr - 0x40) n)
  else if n ≠ 4 then .error
  else if addr = 0x64 then .okayRead s.statusWord
  else if addr = 0x68 then .okayRead s.ctrlWord
  else if addr = 0x6C then .okayRead s.fvalidWord
  else if addr = 0x70 then .okayRead s.einfo
  else if addr = 0x7C then .okayRead Config.idWord
  else .error

/-- The `CMD` write that reached line 6 of 20_memory.md R61, so `BUSY = 0` and `ERR = 0`: an illegal word faults, a command
makes its first move (60_exceptions.md R201, R206). -/
def writeCmd (w : Word) (s : State) : Result :=
  match decode w with
  | .error _ => .next (s.raise .illegalCommand w)
  | .ok i => exec i s

/-- `MemWrite(addr, n, v)`, the first matching line decides (20_memory.md R61, R57). -/
def memWrite (addr n : Nat) (v : Word) (s : State) : Result :=
  if !legalAccess addr n then .next (s.answer .error)
  else if addr = 0x68 ∧ n = 4 then .next ((s.writeCtrl v).answer .okay)
  else if s.busy then .next (s.answer .error)
  else if addr < 0x40 then .next ((s.storeBytes addr v n).answer .okay)
  else if addr = 0x60 ∧ n = 4 then
    if s.err then .next (s.answer .error) else writeCmd v (s.answer .okay)
  else .next (s.answer .error)

/-- The sequencer's turn: `Complete`, enabled exactly when `BUSY = 1`, performs the latched command (60_exceptions.md R203);
otherwise the sequencer has no step and the turn passes. -/
def sequencer (s : State) : Result :=
  if s.busy then
    match decode s.cur with
    | .ok i => exec i s
    | .error _ => .fault .curNotACommand
  else .next s

/-- One event at the block (00_scope.md R11). -/
def perform (e : Event) (s : State) : Result :=
  match e with
  | .read addr n => .next (s.answer (memRead addr n s))
  | .write addr n v => memWrite addr n v s
  | .resetLine => .next s.resetBlock
  | .complete => sequencer s

/-- Whose move it is: the first event of the schedule, taken off it; when the host has issued its last transaction the
sequencer moves, so that every accepted command completes (00_scope.md R12); an idle block waits (70_reset_and_hazards.md
R230). -/
def turn (s : State) : Result :=
  match s.sched with
  | [] => sequencer s
  | e :: rest => perform e { s with sched := rest }

/-- The state in which the next event is the 4-byte write of the command word `w` to `CMD` and the block is IDLE, so that
the write reaches the decoder (20_memory.md R61 line 6, 60_exceptions.md R216). -/
def State.withCommand (s : State) (w : Word) : State :=
  { s with
    sched := .write 0x60 4 w :: s.sched
    busy := false
    err := false
    ecode := none }

end Sys2Proof.Machine
end

