-- ==== Sys2Proof/Safety.lean ====
section
/-! DEFINITION. What the statements about the block are said with: the launch premises (spec 70_reset_and_hazards.md R234),
the end of a run (00_scope.md R12), the invariants of every reachable state (10_state.md R21, R28, R31, R32), what two
states share when only their data or only the contents behind cleared valid bits differ, and which registers a command
names as destinations (10_state.md R22). -/

namespace Sys2Proof.Machine

/-! ## Launch premises and the end of a run -/

/-- `Idle`: `BUSY = 0 ∧ ERR = 0` (R234). -/
def State.Idle (s : State) : Prop := s.busy = false ∧ s.err = false

/-- `KLoaded`: `KBFULL = 1` (R234). -/
def State.KLoaded (s : State) : Prop := ∀ j : Fin 32, s.kbv[j] = true

/-- `ULoaded`: `UBFULL = 1` (R234). -/
def State.ULoaded (s : State) : Prop := ∀ j : Fin 32, s.ubv[j] = true

/-- `AfterReset`: the control state of 10_state.md R44; nothing is said of the data contents (R45) nor of `CUR`. -/
structure State.AfterReset (s : State) : Prop where
  busy : s.busy = false
  done : s.done = false
  err : s.err = false
  ecode : s.ecode = none
  ie : s.ie = false
  einfo : s.einfo = 0#32
  lcnt : s.lcnt = 0#8
  ov : s.ov = false
  kv : s.kv = false
  fv : ∀ i : Reg, s.fv[i] = false
  kbv : ∀ j : Fin 32, s.kbv[j] = false
  ubv : ∀ j : Fin 32, s.ubv[j] = false

/-- A run has ended: the last transaction is answered and `BUSY = 0` (00_scope.md R12). -/
def State.Ended (s : State) : Prop := s.sched = [] ∧ s.busy = false

/-- It ended successfully: not in the faulted state (00_scope.md R12). -/
def State.EndedWell (s : State) : Prop := s.Ended ∧ s.err = false

/-! ## Invariants -/

/-- The invariants of 10_state.md R32, with R21 for the registers, R28 for `OBUF` and R31 for `CUR`: while `BUSY = 1` it holds
a command that passes every check in the present state. `LCNT ≤ 255` is its type. -/
structure State.Inv (s : State) : Prop where
  busyQuiet : s.busy = true → s.err = false ∧ s.done = false
  errCode : s.err = true ↔ s.ecode ≠ none
  errHidesOutput : s.err = true → s.ov = false
  reduced : ∀ i : Reg, s.fv[i] = true → (s.f[i]).toNat < Config.P
  outputTop : s.ov = true → (s.obuf[31]).toNat < 0x80
  latched : s.busy = true → ∃ i, decode s.cur = .ok i ∧ check i s = none

/-! ## Two states that share something -/

/-- A response without the data it carries. -/
def Response.kind : Response → Response
  | .okay => .okay
  | .okayRead _ => .okayRead 0#32
  | .error => .error

/-- The state with every data value forgotten: what is left is valid bits, flags, the counter, the words of commands, the
schedule and which kind of answer was given (70_reset_and_hazards.md R247). -/
def State.eraseData (s : State) : State :=
  { s with
    f := Vector.replicate 16 0#256
    k := 0#256
    kbuf := Vector.replicate 32 0#8
    ubuf := Vector.replicate 32 0#8
    obuf := Vector.replicate 32 0#8
    answers := s.answers.map Response.kind }

/-- Two states that agree on everything a valid bit does not hide (10_state.md R45), and on `CUR` while `BUSY = 1` (R31). -/
structure State.Agree (s t : State) : Prop where
  fv : s.fv = t.fv
  f : ∀ i : Reg, s.fv[i] = true → s.f[i] = t.f[i]
  kv : s.kv = t.kv
  k : s.kv = true → s.k = t.k
  kbv : s.kbv = t.kbv
  kbuf : ∀ j : Fin 32, s.kbv[j] = true → s.kbuf[j] = t.kbuf[j]
  ubv : s.ubv = t.ubv
  ubuf : ∀ j : Fin 32, s.ubv[j] = true → s.ubuf[j] = t.ubuf[j]
  ov : s.ov = t.ov
  obuf : s.ov = true → s.obuf = t.obuf
  lcnt : s.lcnt = t.lcnt
  busy : s.busy = t.busy
  done : s.done = t.done
  err : s.err = t.err
  ie : s.ie = t.ie
  ecode : s.ecode = t.ecode
  einfo : s.einfo = t.einfo
  cur : s.busy = true → s.cur = t.cur
  sched : s.sched = t.sched
  answers : s.answers = t.answers

/-! ## What a command writes -/

/-- The registers a command writes: those its `rd` names, and the implicit ones of 10_state.md R22 (last column). -/
def destinations : Instr → List Reg
  | .fadd rd _ _ => [rd]
  | .fsub rd _ _ => [rd]
  | .fmul rd _ _ => [rd]
  | .fpow rd _ => [rd]
  | .finv rd _ => [rd]
  | .decle => []
  | .deck => []
  | .decu rd => [rd]
  | .enc _ => []
  | .ladd => [TX, TZ]
  | .lswap => [R0X, R0Z, R1X, R1Z]
  | .ldbl => [R0X, R0Z, R1X, R1Z]
  | .linit _ => [R0X, R0Z, R1X, R1Z, BU]
  | .lstep => [R0X, R0Z, R1X, R1Z, TX, TZ]
  | .ladder _ => [R0X, R0Z, R1X, R1Z, BU, TX, TZ]
  | .x25519 => [R0X, R0Z, R1X, R1Z, BU, TX, TZ, RES]

/-- An event that resets the block: the reset line, or a legal write of `CTRL` with `SRST` (70_reset_and_hazards.md R230). -/
def Event.isReset : Event → Bool
  | .resetLine => true
  | .write addr n v => addr == 0x68 && n == 4 && v.getLsbD 31
  | .read _ _ => false
  | .complete => false

end Sys2Proof.Machine
end

