-- ==== Sys2Proof/Certificates/Slice0/Obligations.lean ====
section
/-! DEFINITION. The statements about the block for the provers, each from a rule of spec/. A record `{ s with … }` on the
right of an equation states the frame as well: every field it does not name is unchanged. -/

open Sys2Proof Sys2Proof.Machine

/-! ## Reset -/

/-- 10_state.md R44: reset, by the reset input or by `CTRL.SRST`, in every state, and the state after power-on. -/
def Obligations.ResetPutsControlState : Prop :=
  (State.reset.AfterReset ∧ State.reset.irq = false) ∧
  (∀ (s : State) (rest : List Event), s.sched = .resetLine :: rest →
    ∃ t, step s = .next t ∧ t.AfterReset ∧ t.irq = false ∧ t.sched = rest ∧ t.answers = s.answers) ∧
  (∀ (s : State) (rest : List Event) (v : Word), s.sched = .write 0x68 4 v :: rest → v.getLsbD 31 = true →
    ∃ t, step s = .next t ∧ t.AfterReset ∧ t.irq = false ∧ t.sched = rest ∧ t.answers = .okay :: s.answers)

/-- 70_reset_and_hazards.md R230, 60_exceptions.md R217, R203, 00_scope.md R11: an idle block with no host event before it does
nothing and keeps all state; so does the block right after reset; and `Complete` is not enabled while `BUSY = 0`: a turn
given to the sequencer then changes nothing but the schedule it is taken off. That reset leaves nothing to come, and that a
turn may be given in vain, is the model's choice (log entry 3). -/
def Obligations.IdleBlockWaits : Prop :=
  (∀ s : State, s.busy = false → s.sched = [] → step s = .next s) ∧ step State.reset = .next State.reset ∧
  (∀ (s : State) (rest : List Event), s.busy = false → s.sched = .complete :: rest →
    step s = .next { s with sched := rest })

/-- 10_state.md R32, R21, R28, R31 hold right after reset. -/
def Obligations.ResetMeetsInvariants : Prop := State.reset.Inv

/-- 10_state.md R32, R21, R28, R31: every step keeps the invariants, from every state that has them. -/
def Obligations.EveryStepKeepsInvariants : Prop :=
  ∀ s t : State, s.Inv → step s = .next t → t.Inv

/-- 60_exceptions.md R203, 10_state.md R31: from every state with the invariants a step answers a next state: the model's one
stop, `Complete` with no command in `CUR` (log entry 5), is not met, and nothing is refused. -/
def Obligations.BlockNeverStops : Prop := ∀ s : State, s.Inv → ∃ t, step s = .next t

/-! ## Encoding -/

/-- 30_encoding.md R80 to R83: decoding the word of any command, with every operand at every value, gives the command. -/
def Obligations.DecodeOfEncode : Prop := ∀ i : Instr, decode (encode i) = .ok i

/-- 30_encoding.md R83, R84: a word that decodes has no bit but those its command is written with. -/
def Obligations.EncodeOfDecode : Prop := ∀ (w : Word) (i : Instr), decode w = .ok i → encode i = w

/-- 30_encoding.md R81, R84: a word is the command `c` exactly when `w & mask(c) = match(c)`, and the words that are commands
are exactly those whose opcode is assigned and whose unused fields are zero. -/
def Obligations.WordIsCommandIffMatch : Prop :=
  (∀ (w : Word) (o : Opcode),
    (∃ i, decode w = .ok i ∧ i.opcode = o) ↔ w &&& o.form.mask = o.code.zeroExtend 32 <<< 24) ∧
  (∀ x : Fields, (∃ i, decode x.word = .ok i) ↔ x.wellFormed = true)

/-- 30_encoding.md R84, R85: one word of each of the sixteen rows of R85, as 96_derived_vectors.md T6.1 to T6.16 writes them
out, and one illegal word of each of the three cases of R84 (T6.17, T6.24, T6.28). -/
def Obligations.SpecWordsDecode : Prop :=
  decode 0x10210000#32 = .ok (.fadd 2 1 0) ∧ decode 0x11abc000#32 = .ok (.fsub 10 11 12) ∧
  decode 0x12fed000#32 = .ok (.fmul 15 14 13) ∧ decode 0x20f00000#32 = .ok (.fpow 15 0) ∧
  decode 0x21f90000#32 = .ok (.finv 15 9) ∧ decode 0x30000000#32 = .ok .decle ∧
  decode 0x31000000#32 = .ok .deck ∧ decode 0x32c00000#32 = .ok (.decu 12) ∧
  decode 0x330f0000#32 = .ok (.enc 15) ∧ decode 0x40000000#32 = .ok .ladd ∧
  decode 0x41000000#32 = .ok .lswap ∧ decode 0x42000000#32 = .ok .ldbl ∧
  decode 0x430c0000#32 = .ok (.linit 12) ∧ decode 0x44000000#32 = .ok .lstep ∧
  decode 0x450c0000#32 = .ok (.ladder 12) ∧ decode 0x50000000#32 = .ok .x25519 ∧
  decode 0x00000000#32 = .error .unassignedOpcode ∧ decode 0x12210001#32 = .error .zeroFieldSet ∧
  decode 0x32110000#32 = .error .unusedFieldSet

/-! ## The life of a command -/

/-- 20_memory.md R61 line 6, 60_exceptions.md R201: a `CMD` write in the IDLE state runs the command its word decodes to;
around it the step takes the transaction off the schedule and answers `OKAY`. -/
def Obligations.StepRunsWrittenCommand : Prop :=
  ∀ (s : State) (rest : List Event) (w : Word) (i : Instr), s.Idle → s.sched = .write 0x60 4 w :: rest →
    decode w = .ok i →
    step s = exec i { s with sched := rest, answers := .okay :: s.answers }

/-- 60_exceptions.md R203: while `BUSY = 1` the sequencer's turn runs the latched command; around it the step takes the turn
off the schedule. When the host has nothing left to issue the turn is the sequencer's (00_scope.md R12; the schedule is the
model's, log entry 3). -/
def Obligations.StepRunsLatchedCommand : Prop :=
  ∀ (s : State) (i : Instr), s.busy = true → decode s.cur = .ok i →
    (∀ rest, s.sched = .complete :: rest → step s = exec i { s with sched := rest }) ∧
    (s.sched = [] → step s = exec i s)

/-- 60_exceptions.md R201, R202: the whole `CMD` write. In the IDLE state a word that fails a check raises its fault, which
changes exactly `ERR`, `ECODE`, `EINFO`, `DONE` and `OV`; any other word is latched, `BUSY` set and `DONE` cleared; the
response is `OKAY` in both cases. While `BUSY = 1` or `ERR = 1` it is answered `ERROR` whatever the word and changes
nothing. -/
def Obligations.CmdWriteProcedure : Prop :=
  ∀ (s : State) (rest : List Event) (w : Word), s.sched = .write 0x60 4 w :: rest →
    (s.Idle →
      (∀ c : CmdFault, checkWord w s = some c →
        step s = .next { s with
          sched := rest, answers := .okay :: s.answers
          err := true, ecode := some c, einfo := w, done := true, ov := false }) ∧
      (checkWord w s = none →
        step s = .next { s with
          sched := rest, answers := .okay :: s.answers
          cur := w, busy := true, done := false })) ∧
    (s.busy = true ∨ s.err = true →
      step s = .next { s with sched := rest, answers := .error :: s.answers })

/-- 60_exceptions.md R201, R202, for `exec`: while `BUSY = 0` a command that passes its checks is latched, `BUSY` set and `DONE`
cleared; one that fails a check takes its fault, which changes exactly `ERR`, `ECODE`, `EINFO`, `DONE` and `OV`. -/
def Obligations.CommandIsAcceptedOrFaults : Prop :=
  ∀ (i : Instr) (s : State), s.busy = false →
    (check i s = none → exec i s = .next { s with cur := encode i, busy := true, done := false }) ∧
    (∀ c : CmdFault, check i s = some c →
      exec i s = .next { s with
        err := true, ecode := some c, einfo := encode i, done := true, ov := false })

/-- 60_exceptions.md R205, R212 (a): which fault each word raises, the first failing check deciding: illegal words (30_encoding.md
R84) before all, then the columns 2 to 4 of the table. -/
def Obligations.CheckTable : Prop :=
  ∀ s : State,
    (∀ (w : Word) (r : Reject), decode w = .error r → checkWord w s = some .illegalCommand) ∧
    (∀ (w : Word) (i : Instr), decode w = .ok i → checkWord w s = check i s) ∧
    (∀ rd ra rb : Reg, ∀ i ∈ [Instr.fadd rd ra rb, .fsub rd ra rb, .fmul rd ra rb],
      check i s = if s.fv[ra] ∧ s.fv[rb] then none else some .uninitialisedOperand) ∧
    (∀ rd ra : Reg, check (.fpow rd ra) s = if s.fv[ra] ∧ s.kv then none else some .uninitialisedOperand) ∧
    (∀ rd ra : Reg, ∀ i ∈ [Instr.finv rd ra, .enc ra, .linit ra],
      check i s = if s.fv[ra] then none else some .uninitialisedOperand) ∧
    (∀ ra : Reg, check (.ladder ra) s = if s.fv[ra] ∧ s.kv then none else some .uninitialisedOperand) ∧
    (∀ i ∈ [Instr.decle, .deck],
      (s.KLoaded → check i s = none) ∧ (¬ s.KLoaded → check i s = some .invalidInputLength)) ∧
    (∀ rd : Reg, (s.ULoaded → check (.decu rd) s = none) ∧
      (¬ s.ULoaded → check (.decu rd) s = some .invalidInputLength)) ∧
    ((s.KLoaded ∧ s.ULoaded → check .x25519 s = none) ∧
      (¬ (s.KLoaded ∧ s.ULoaded) → check .x25519 s = some .invalidInputLength)) ∧
    (check .ladd s =
      if s.fv[8] ∧ s.fv[9] ∧ s.fv[10] ∧ s.fv[11] ∧ s.fv[12] then none else some .uninitialisedOperand) ∧
    (check .ldbl s =
      if s.fv[8] ∧ s.fv[9] ∧ s.fv[13] ∧ s.fv[14] then none else some .uninitialisedOperand) ∧
    (check .lswap s =
      if ¬ (s.fv[8] ∧ s.fv[9] ∧ s.fv[10] ∧ s.fv[11] ∧ s.kv) then some .uninitialisedOperand
      else if s.lcnt = 0#8 then some .ladderSequence else none) ∧
    (check .lstep s =
      if ¬ (s.fv[8] ∧ s.fv[9] ∧ s.fv[10] ∧ s.fv[11] ∧ s.fv[12] ∧ s.kv) then some .uninitialisedOperand
      else if s.lcnt = 0#8 then some .ladderSequence else none)

/-- 10_state.md R31, 20_memory.md R57: while a command is in execution no host transaction but a reset changes anything of
the block but `IE` and `DONE`: the state at acceptance is still the state at completion. -/
def Obligations.BusyBlockIsFrozen : Prop :=
  ∀ (s t : State) (e : Event) (rest : List Event), s.busy = true → s.sched = e :: rest → e ≠ .complete →
    e.isReset = false → step s = .next t →
    t = { s with sched := rest, ie := t.ie, done := t.done, answers := t.answers }

/-- 00_scope.md R12, 60_exceptions.md R203: every accepted command ends after finitely many host steps: within one step more
than the schedule still holds, the block is no longer busy. The bound is the model's (log entry 3); the spec gives none. -/
def Obligations.AcceptedCommandEnds : Prop :=
  ∀ s : State, s.Inv → s.busy = true →
    ∃ n ≤ s.sched.length + 1, ∃ t : State, core.run n s = .next t ∧ t.busy = false

/-- 60_exceptions.md R203, R202, R211: the end of a command, by completion or by fault, sets `DONE` and so raises `irq` when
it is enabled; `BUSY` is 0 after it. -/
def Obligations.EndOfCommandRaisesIrq : Prop :=
  ∀ (i : Instr) (s : State), s.busy = true ∨ check i s ≠ none →
    ∃ t, exec i s = .next t ∧ t.busy = false ∧ t.done = true ∧ t.irq = s.ie

/-- 60_exceptions.md R203, 10_state.md R22, R29: what a completing command leaves unchanged, for all sixteen. -/
def Obligations.CompletionFrame : Prop :=
  ∀ (i : Instr) (s : State), s.busy = true →
    ∃ t, exec i s = .next t ∧ t.busy = false ∧ t.done = true ∧
      t.kbuf = s.kbuf ∧ t.kbv = s.kbv ∧ t.ubuf = s.ubuf ∧ t.ubv = s.ubv ∧
      t.err = s.err ∧ t.ecode = s.ecode ∧ t.einfo = s.einfo ∧ t.ie = s.ie ∧ t.cur = s.cur ∧
      t.sched = s.sched ∧ t.answers = s.answers ∧
      (∀ r : Reg, r ∉ destinations i → t.f[r] = s.f[r] ∧ t.fv[r] = s.fv[r]) ∧
      (∀ r : Reg, r ∈ destinations i → t.fv[r] = true) ∧
      (i.opcode ∉ [.decle, .deck, .x25519] → t.k = s.k ∧ t.kv = s.kv) ∧
      (i.opcode ∉ [.enc, .x25519] → t.obuf = s.obuf ∧ t.ov = s.ov) ∧
      (i.opcode ∉ [.linit, .lstep, .ladder, .x25519] → t.lcnt = s.lcnt)

/-! ## The field arithmetic unit and the inverter -/

/-- 40_field_arithmetic.md R105, R100: FADD of reduced operands completes with `a + b`, less P when it reaches P; nothing but
`F[rd]`, `FV[rd]`, `DONE` and `BUSY` changes (R108). -/
def Obligations.FaddResult : Prop :=
  ∀ (s : State) (rd ra rb : Reg), s.busy = true →
    (s.f[ra]).toNat < Config.P → (s.f[rb]).toNat < Config.P →
    exec (.fadd rd ra rb) s = .next { s with
      f := s.f.set rd (BitVec.ofNat 256
        (if (s.f[ra]).toNat + (s.f[rb]).toNat < Config.P then (s.f[ra]).toNat + (s.f[rb]).toNat
         else (s.f[ra]).toNat + (s.f[rb]).toNat - Config.P))
      fv := s.fv.set rd true, busy := false, done := true }

/-- 40_field_arithmetic.md R106, R101: FSUB of reduced operands completes with `a − b`, plus P when `a < b`. -/
def Obligations.FsubResult : Prop :=
  ∀ (s : State) (rd ra rb : Reg), s.busy = true →
    (s.f[ra]).toNat < Config.P → (s.f[rb]).toNat < Config.P →
    exec (.fsub rd ra rb) s = .next { s with
      f := s.f.set rd (BitVec.ofNat 256
        (if (s.f[rb]).toNat ≤ (s.f[ra]).toNat then (s.f[ra]).toNat - (s.f[rb]).toNat
         else (s.f[ra]).toNat + Config.P - (s.f[rb]).toNat))
      fv := s.fv.set rd true, busy := false, done := true }

/-- 40_field_arithmetic.md R107, R102: FMUL completes with the residue of the product. -/
def Obligations.FmulResult : Prop :=
  ∀ (s : State) (rd ra rb : Reg), s.busy = true →
    exec (.fmul rd ra rb) s = .next { s with
      f := s.f.set rd (BitVec.ofNat 256 ((s.f[ra]).toNat * (s.f[rb]).toNat % Config.P))
      fv := s.fv.set rd true, busy := false, done := true }

/-- 41_inverter.md R122, R120: FPOW completes with the residue of the power, the exponent all 256 bits of `K`. -/
def Obligations.FpowResult : Prop :=
  ∀ (s : State) (rd ra : Reg), s.busy = true →
    exec (.fpow rd ra) s = .next { s with
      f := s.f.set rd (BitVec.ofNat 256 ((s.f[ra]).toNat ^ s.k.toNat % Config.P))
      fv := s.fv.set rd true, busy := false, done := true }

/-- 41_inverter.md R123: FINV completes with `x^(P−2) mod P`, which is 0 for 0; `K` plays no part. The exponent stands under a
name of its own so that nothing unfolds the power. -/
def Obligations.FinvResult : Prop :=
  ∀ (s : State) (rd ra : Reg) (e : Nat), s.busy = true → e = Config.P - 2 →
    exec (.finv rd ra) s = .next { s with
      f := s.f.set rd (BitVec.ofNat 256 ((s.f[ra]).toNat ^ e % Config.P))
      fv := s.fv.set rd true, busy := false, done := true } ∧
    ((s.f[ra]).toNat = 0 →
      exec (.finv rd ra) s = .next { s with
        f := s.f.set rd 0#256
        fv := s.fv.set rd true, busy := false, done := true })

/-- 41_inverter.md R121: for a reduced `x ≠ 0` the value FINV leaves is its multiplicative inverse mod P. -/
def Obligations.FinvInverts : Prop :=
  ∀ (s : State) (rd ra : Reg), s.busy = true → 0 < (s.f[ra]).toNat → (s.f[ra]).toNat < Config.P →
    ∃ t, exec (.finv rd ra) s = .next t ∧ (s.f[ra]).toNat * (t.f[rd]).toNat % Config.P = 1

/-- 41_inverter.md R124: with `K = P − 2`, FPOW and FINV leave the same state. -/
def Obligations.FpowByPMinusTwoIsFinv : Prop :=
  ∀ (s : State) (rd ra : Reg), s.busy = true → s.k = BitVec.ofNat 256 (Config.P - 2) →
    exec (.fpow rd ra) s = exec (.finv rd ra) s

/-! ## The codec -/

/-- 42_codec.md R135, R130: DECLE completes with `K` the little-endian sum of the 32 bytes, raw. -/
def Obligations.DecleResult : Prop :=
  ∀ s : State, s.busy = true →
    exec .decle s = .next { s with
      k := BitVec.ofNat 256 (∑ j : Fin 32, (s.kbuf[j]).toNat * 2 ^ (8 * (j : Nat)))
      kv := true, busy := false, done := true }

/-- 42_codec.md R136, R131: DECK completes with `K` the bits of `KBUF` but for bits 0, 1, 2, 255 cleared and bit 254 set. -/
def Obligations.DeckResult : Prop :=
  ∀ s : State, s.busy = true →
    ∃ v : Elem, exec .deck s = .next { s with k := v, kv := true, busy := false, done := true } ∧
      ∀ (j : Fin 32) (b : Fin 8),
        v.getLsbD (8 * j + b) =
          if 8 * (j : Nat) + b < 3 ∨ 8 * (j : Nat) + b = 255 then false
          else if 8 * (j : Nat) + b = 254 then true
          else (s.kbuf[j]).getLsbD b

/-- 42_codec.md R137, R133: DECU completes with the bytes of `UBUF` as an integer, bit 255 dropped, reduced mod P. -/
def Obligations.DecuResult : Prop :=
  ∀ (s : State) (rd : Reg), s.busy = true →
    exec (.decu rd) s = .next { s with
      f := s.f.set rd (BitVec.ofNat 256
        ((∑ j : Fin 32, (s.ubuf[j]).toNat * 2 ^ (8 * (j : Nat))) % 2 ^ 255 % Config.P))
      fv := s.fv.set rd true, busy := false, done := true }

/-- 42_codec.md R138, R134: ENC completes with byte `j` of `OBUF` bits `8j+7 .. 8j` of the register, and `OV = 1`. -/
def Obligations.EncResult : Prop :=
  ∀ (s : State) (ra : Reg), s.busy = true →
    ∃ b : Buffer, exec (.enc ra) s = .next { s with obuf := b, ov := true, busy := false, done := true } ∧
      ∀ j : Fin 32, b[j] = (s.f[ra]).extractLsb' (8 * j) 8

/-- 42_codec.md R134: decoding the encoding of a field element gives it back, and encoding a decoded canonical input gives
its bytes back (95_test_vectors.md V5). -/
def Obligations.CodecRoundTrip : Prop :=
  (∀ x : Nat, x < Config.P → decodeU Config.curve (encodeBytes x) = x) ∧
  (∀ b : Buffer, le b < Config.P → encodeBytes (decodeU Config.curve b) = b)

/-! ## The ladder -/

/-- 43_ladder.md R160, R153: LADD completes with `t` the differential addition of `r0` and `r1`, written here as the
formulas of R153 multiplied out over the integers mod P. -/
def Obligations.LaddResult : Prop :=
  ∀ s : State, s.busy = true →
    ∃ x z : Nat, x < Config.P ∧ z < Config.P ∧
      exec .ladd s = .next { s with
        f := (s.f.set 13 (BitVec.ofNat 256 x)).set 14 (BitVec.ofNat 256 z)
        fv := (s.fv.set 13 true).set 14 true, busy := false, done := true } ∧
      (x : ℤ) ≡ ((((s.f[10]).toNat : ℤ) - (s.f[11]).toNat) * ((s.f[8]).toNat + (s.f[9]).toNat) +
        ((s.f[10]).toNat + (s.f[11]).toNat) * ((s.f[8]).toNat - (s.f[9]).toNat)) ^ 2 [ZMOD Config.P] ∧
      (z : ℤ) ≡ (s.f[12]).toNat * ((((s.f[10]).toNat : ℤ) - (s.f[11]).toNat) * ((s.f[8]).toNat + (s.f[9]).toNat) -
        ((s.f[10]).toNat + (s.f[11]).toNat) * ((s.f[8]).toNat - (s.f[9]).toNat)) ^ 2 [ZMOD Config.P]

/-- 43_ladder.md R162, R152: LDBL completes with `r0` doubled, `(X+Z)²(X−Z)²` over `4XZ((X−Z)² + A24·4XZ)` mod P with
`A24 = 121666`, and `r1` the old `t`. -/
def Obligations.LdblResult : Prop :=
  ∀ s : State, s.busy = true →
    ∃ x z : Nat, x < Config.P ∧ z < Config.P ∧
      exec .ldbl s = .next { s with
        f := (((s.f.set 8 (BitVec.ofNat 256 x)).set 9 (BitVec.ofNat 256 z)).set 10 s.f[13]).set 11 s.f[14]
        fv := (((s.fv.set 8 true).set 9 true).set 10 true).set 11 true, busy := false, done := true } ∧
      (x : ℤ) ≡ ((s.f[8]).toNat + (s.f[9]).toNat) ^ 2 * ((s.f[8]).toNat - (s.f[9]).toNat) ^ 2 [ZMOD Config.P] ∧
      (z : ℤ) ≡ 4 * (s.f[8]).toNat * (s.f[9]).toNat *
        (((s.f[8]).toNat - (s.f[9]).toNat) ^ 2 + 121666 * (4 * (s.f[8]).toNat * (s.f[9]).toNat)) [ZMOD Config.P]

/-- 43_ladder.md R161, R151: LSWAP of reduced points with `LCNT ≠ 0` exchanges `r0` and `r1` when the scalar bit `LCNT − 1` is
1 and otherwise rewrites the same values; `LCNT` and `K` stay. -/
def Obligations.LswapResult : Prop :=
  ∀ s : State, s.busy = true → s.lcnt ≠ 0#8 →
    (∀ r : Reg, 8 ≤ r → r ≤ 11 → (s.f[r]).toNat < Config.P) →
    exec .lswap s = .next { s with
      f := if s.k.getLsbD (s.lcnt.toNat - 1)
        then (((s.f.set 8 s.f[10]).set 9 s.f[11]).set 10 s.f[8]).set 11 s.f[9] else s.f
      fv := (((s.fv.set 8 true).set 9 true).set 10 true).set 11 true, busy := false, done := true }

/-- 43_ladder.md R163: LINIT completes with `r0 = (1, 0)`, `r1 = (u, 1)`, `BU = u`, `LCNT = 255`, where `u` is read first. -/
def Obligations.LinitResult : Prop :=
  ∀ (s : State) (ra : Reg), s.busy = true →
    exec (.linit ra) s = .next { s with
      f := ((((s.f.set 8 1#256).set 9 0#256).set 10 s.f[ra]).set 11 1#256).set 12 s.f[ra]
      fv := ((((s.fv.set 8 true).set 9 true).set 10 true).set 11 true).set 12 true
      lcnt := 255#8, busy := false, done := true }

/-- 43_ladder.md R164, R154: LSTEP with `LCNT ≠ 0` on reduced points: with `t` the differential addition, the new `(r0, r1)` is
`(x_dbl r0, t)` for the bit 0 and `(t, x_dbl r1)` for the bit 1; `t` goes to `TX, TZ` and `LCNT` counts down. -/
def Obligations.LstepResult : Prop :=
  ∀ s : State, s.busy = true → s.lcnt ≠ 0#8 →
    (∀ r : Reg, 8 ≤ r → r ≤ 12 → (s.f[r]).toNat < Config.P) →
    ∃ r0 r1 t : Point,
      t = xAdd Config.curve ⟨(s.f[8]).toNat, (s.f[9]).toNat⟩ ⟨(s.f[10]).toNat, (s.f[11]).toNat⟩ (s.f[12]).toNat ∧
      (r0, r1) = (if s.k.getLsbD (s.lcnt.toNat - 1)
        then (t, xDbl Config.curve ⟨(s.f[10]).toNat, (s.f[11]).toNat⟩)
        else (xDbl Config.curve ⟨(s.f[8]).toNat, (s.f[9]).toNat⟩, t)) ∧
      exec .lstep s = .next { s with
        f := (((((s.f.set 8 (BitVec.ofNat 256 r0.x)).set 9 (BitVec.ofNat 256 r0.z)).set 10
          (BitVec.ofNat 256 r1.x)).set 11 (BitVec.ofNat 256 r1.z)).set 13 (BitVec.ofNat 256 t.x)).set 14
          (BitVec.ofNat 256 t.z)
        fv := (((((s.fv.set 8 true).set 9 true).set 10 true).set 11 true).set 13 true).set 14 true
        lcnt := s.lcnt - 1#8, busy := false, done := true }

/-- 43_ladder.md R164, R166 (2): LSTEP leaves the state that LADD, LSWAP, LDBL, LSWAP leave one after the other, with `LCNT`
then decremented. -/
def Obligations.LstepIsFourCommands : Prop :=
  ∀ s : State, s.busy = true →
    ∃ a b c d : State, exec .ladd s = .next a ∧ exec .lswap { a with busy := true } = .next b ∧
      exec .ldbl { b with busy := true } = .next c ∧ exec .lswap { c with busy := true } = .next d ∧
      exec .lstep s = .next { d with lcnt := s.lcnt - 1#8 }

/-- 43_ladder.md R165, R155: LADDER completes with `(F[8], F[9])` the ladder of `K` and `u = F[ra]`, `(F[10], F[11])` the final
`r1`, `F[12] = u`, `(F[13], F[14])` the `t` of the last iteration, `LCNT = 0`, `FV[8..14] = 1`, and every other field
unchanged. The last iteration starts from `q`, what the 254 iterations for the bits 254 to 1 of `K` leave; those are the
bits 253 to 0 of `K / 2`. -/
def Obligations.LadderResult : Prop :=
  ∀ (s : State) (ra : Reg), s.busy = true →
    ∃ t, exec (.ladder ra) s = .next t ∧
      (let k := s.k.toNat
       let u := (s.f[ra]).toNat
       let r := ladderLoop Config.curve k u 255 (⟨1, 0⟩, ⟨u, 1⟩)
       let q := ladderLoop Config.curve (k / 2) u 254 (⟨1, 0⟩, ⟨u, 1⟩)
       let d := xAdd Config.curve q.1 q.2 u
       (t.f[8]).toNat = (ladder Config.curve k u).x ∧ (t.f[9]).toNat = (ladder Config.curve k u).z ∧
       (t.f[10]).toNat = r.2.x ∧ (t.f[11]).toNat = r.2.z ∧ t.f[12] = s.f[ra] ∧
       (t.f[13]).toNat = d.x ∧ (t.f[14]).toNat = d.z) ∧
      (∀ r : Reg, r < 8 ∨ r = 15 → t.f[r] = s.f[r] ∧ t.fv[r] = s.fv[r]) ∧
      (∀ r : Reg, 8 ≤ r → r < 15 → t.fv[r] = true) ∧
      t = { s with f := t.f, fv := t.fv, lcnt := 0#8, busy := false, done := true }

/-- 43_ladder.md R166 (1): LADDER leaves the state that LINIT and 255 LSTEP leave, each completed in turn. -/
def Obligations.LadderIsLinitAndLsteps : Prop :=
  ∀ (s : State) (ra : Reg), s.busy = true →
    ∃ u : Nat → State, exec (.linit ra) s = .next (u 0) ∧
      (∀ n < 255, exec .lstep { u n with busy := true } = .next (u (n + 1))) ∧
      exec (.ladder ra) s = .next (u 255)

/-- 43_ladder.md R168: when no bit of `K` below bit 255 is set, LADDER ends at infinity `(1, 0)`, whatever the point. -/
def Obligations.ZeroScalarGivesInfinity : Prop :=
  ∀ (s : State) (ra : Reg), s.busy = true → s.k.toNat % 2 ^ 255 = 0 →
    ∃ t, exec (.ladder ra) s = .next t ∧ t.f[8] = 1#256 ∧ t.f[9] = 0#256

/-! ## X25519 -/

/-- 44_x25519.md R180, R182: X25519 completes with `OBUF` the encoding of `X · finv(Z)`, where `(X, Z)` is the ladder of the
clamped scalar and the decoded u-coordinate; `K` the clamped scalar; `F[8..14]` what LADDER leaves (43_ladder.md R165: the
result, the final `r1`, `u`, the last `t`) and `F[15]` the encoded value; their valid bits, `KV` and `OV` 1, `LCNT` 0;
`F[0..7]` and everything else unchanged. -/
def Obligations.X25519Result : Prop :=
  ∀ s : State, s.busy = true →
    ∃ t, exec .x25519 s = .next t ∧
      (let k := clamp (le s.kbuf)
       let u := decodeU Config.curve s.ubuf
       let p := ladder Config.curve k u
       let r := ladderLoop Config.curve k u 255 (⟨1, 0⟩, ⟨u, 1⟩)
       let q := ladderLoop Config.curve (k / 2) u 254 (⟨1, 0⟩, ⟨u, 1⟩)
       let d := xAdd Config.curve q.1 q.2 u
       let v := fmul Config.curve p.x (finv Config.curve p.z)
       t.obuf = encodeBytes v ∧ t.k = BitVec.ofNat 256 k ∧
       (t.f[8]).toNat = p.x ∧ (t.f[9]).toNat = p.z ∧ (t.f[10]).toNat = r.2.x ∧ (t.f[11]).toNat = r.2.z ∧
       (t.f[12]).toNat = u ∧ (t.f[13]).toNat = d.x ∧ (t.f[14]).toNat = d.z ∧ (t.f[15]).toNat = v) ∧
      (∀ r : Reg, r < 8 → t.f[r] = s.f[r] ∧ t.fv[r] = s.fv[r]) ∧
      (∀ r : Reg, 8 ≤ r → t.fv[r] = true) ∧
      t = { s with
        f := t.f, fv := t.fv, k := t.k, kv := true, obuf := t.obuf, ov := true
        lcnt := 0#8, busy := false, done := true }

/-- 44_x25519.md R181: from any idle state with both buffers full, the one command leaves the same `K`, `F[8..15]`, `LCNT`,
`OBUF` and valid bits as the six commands given one after the other through the port, and the same `OBUF` as those six with
other registers `a`, `b`, `c` (`b` not `F[8]`, which still holds X). -/
def Obligations.X25519IsCommandSequence : Prop :=
  ∀ (s : State) (a b c : Reg), s.Idle → s.KLoaded → s.ULoaded → b ≠ 8 →
    ∃ t t' : State,
      core.run 2 { s with sched := [.write 0x60 4 (encode .x25519), .complete] } = .next t ∧
      core.run 12 { s with sched :=
        [.write 0x60 4 (encode .deck), .complete, .write 0x60 4 (encode (.decu a)), .complete,
         .write 0x60 4 (encode (.ladder a)), .complete, .write 0x60 4 (encode (.finv b 9)), .complete,
         .write 0x60 4 (encode (.fmul c 8 b)), .complete, .write 0x60 4 (encode (.enc c)), .complete] } = .next t' ∧
      t.busy = false ∧ t.err = false ∧ t'.busy = false ∧ t'.err = false ∧
      t'.obuf = t.obuf ∧ t'.ov = t.ov ∧
      (a = 12 → b = 15 → c = 15 →
        t'.k = t.k ∧ t'.kv = t.kv ∧ t'.lcnt = t.lcnt ∧ t'.fv = t.fv ∧ t'.kbv = t.kbv ∧ t'.ubv = t.ubv ∧
        ∀ r : Reg, 8 ≤ r → t'.f[r] = t.f[r])

/-- 44_x25519.md R182: the bits the codec ignores make no difference: scalar bits 0, 1, 2, 254, 255 and u bit 255. -/
def Obligations.IgnoredInputBits : Prop :=
  ∀ s s' : State, s.busy = true → s'.busy = true →
    (∀ (j : Fin 32) (b : Fin 8), ¬ (8 * (j : Nat) + b < 3 ∨ 254 ≤ 8 * (j : Nat) + b) →
      (s.kbuf[j]).getLsbD b = (s'.kbuf[j]).getLsbD b) →
    (∀ (j : Fin 32) (b : Fin 8), 8 * (j : Nat) + b ≠ 255 → (s.ubuf[j]).getLsbD b = (s'.ubuf[j]).getLsbD b) →
    ∃ t t' : State, exec .x25519 s = .next t ∧ exec .x25519 s' = .next t' ∧ t.obuf = t'.obuf

/-- 44_x25519.md R183, 43_ladder.md R169: whenever the ladder ends with `Z = 0` the output is 32 zero bytes and the command
completes normally, `OV = 1`, `ERR` as it was; and it ends so, with `(F[8], F[9]) = (0, 0)`, for a u-coordinate that decodes
to 0. -/
def Obligations.InfinityGivesZeroOutput : Prop :=
  ∀ s : State, s.busy = true →
    ∃ t, exec .x25519 s = .next t ∧ t.ov = true ∧ t.err = s.err ∧
      ((ladder Config.curve (clamp (le s.kbuf)) (decodeU Config.curve s.ubuf)).z = 0 →
        t.f[15] = 0#256 ∧ t.obuf = Vector.replicate 32 0#8) ∧
      (decodeU Config.curve s.ubuf = 0 →
        t.f[8] = 0#256 ∧ t.f[9] = 0#256 ∧ t.obuf = Vector.replicate 32 0#8)

/-! ## The host port -/

/-- 20_memory.md R58: a transaction of a size other than 1, 2, 4, or at an address that is not a multiple of its size, is
answered `ERROR` and does nothing, in every state. -/
def Obligations.MisalignedAccessRefused : Prop :=
  ∀ (s : State) (rest : List Event) (addr n : Nat) (v : Word), n ∉ [1, 2, 4] ∨ addr % n ≠ 0 →
    (s.sched = .write addr n v :: rest → step s = .next { s with sched := rest, answers := .error :: s.answers }) ∧
    (s.sched = .read addr n :: rest → step s = .next { s with sched := rest, answers := .error :: s.answers })

/-- 10_state.md R39, 20_memory.md R52, R54: reserved and unmapped addresses refuse every access, and 0x60 to 0x7F every
access of fewer than four bytes. -/
def Obligations.UnmappedAccessRefused : Prop :=
  ∀ (s : State) (rest : List Event) (addr n : Nat) (v : Word),
    (0x74 ≤ addr ∧ addr < 0x7C) ∨ 0x80 ≤ addr ∨ (0x60 ≤ addr ∧ addr < 0x80 ∧ n ≠ 4) →
    (s.sched = .write addr n v :: rest → step s = .next { s with sched := rest, answers := .error :: s.answers }) ∧
    (s.sched = .read addr n :: rest → step s = .next { s with sched := rest, answers := .error :: s.answers })

/-- 20_memory.md R52, R61 line 7, R62 line 9: a write to a read-only location and a read of a write-only one are refused. -/
def Obligations.WrongDirectionRefused : Prop :=
  ∀ (s : State) (rest : List Event) (addr n : Nat) (v : Word),
    ((0x40 ≤ addr ∧ addr < 0x60) ∨ addr ∈ [0x64, 0x6C, 0x70, 0x7C] →
      s.sched = .write addr n v :: rest → step s = .next { s with sched := rest, answers := .error :: s.answers }) ∧
    (addr < 0x40 ∨ addr = 0x60 →
      s.sched = .read addr n :: rest → step s = .next { s with sched := rest, answers := .error :: s.answers })

/-- 20_memory.md R57: while `BUSY = 1` every write but a 4-byte write to `CTRL` is answered `ERROR` and changes nothing; reads
of the five control words are answered normally and reads of `OBUF` are not. -/
def Obligations.BusyRefusesWrites : Prop :=
  ∀ (s : State) (rest : List Event), s.busy = true →
    (∀ (addr n : Nat) (v : Word), ¬ (addr = 0x68 ∧ n = 4) → s.sched = .write addr n v :: rest →
      step s = .next { s with sched := rest, answers := .error :: s.answers }) ∧
    (∀ addr n : Nat, 0x40 ≤ addr → addr < 0x60 → s.sched = .read addr n :: rest →
      step s = .next { s with sched := rest, answers := .error :: s.answers }) ∧
    (∀ (addr : Nat) (w : Word),
      (addr, w) ∈ [(0x64, s.statusWord), (0x68, s.ctrlWord), (0x6C, s.fvalidWord), (0x70, s.einfo), (0x7C, 0x25519007#32)] →
      s.sched = .read addr 4 :: rest →
      step s = .next { s with sched := rest, answers := .okayRead w :: s.answers })

/-- 20_memory.md R53, R56: a legal buffer write with `BUSY = 0` stores byte `i` of the value at `addr + i`, sets those valid
bits, answers `OKAY`, and changes nothing else. -/
def Obligations.BufferWriteStoresBytes : Prop :=
  ∀ (s : State) (rest : List Event) (addr n : Nat) (v : Word), s.busy = false → n ∈ [1, 2, 4] → addr % n = 0 →
    addr < 0x40 → s.sched = .write addr n v :: rest →
    ∃ t, step s = .next t ∧
      (∀ j : Fin 32, if addr ≤ j ∧ (j : Nat) < addr + n
        then t.kbuf[j] = v.extractLsb' (8 * (j - addr)) 8 ∧ t.kbv[j] = true
        else t.kbuf[j] = s.kbuf[j] ∧ t.kbv[j] = s.kbv[j]) ∧
      (∀ j : Fin 32, if addr ≤ 0x20 + j ∧ 0x20 + (j : Nat) < addr + n
        then t.ubuf[j] = v.extractLsb' (8 * (0x20 + j - addr)) 8 ∧ t.ubv[j] = true
        else t.ubuf[j] = s.ubuf[j] ∧ t.ubv[j] = s.ubv[j]) ∧
      t = { s with
        kbuf := t.kbuf, kbv := t.kbv, ubuf := t.ubuf, ubv := t.ubv
        sched := rest, answers := .okay :: s.answers }

/-- 20_memory.md R55: a legal read of `OBUF` is `ERROR` while `BUSY = 1` or `OV = 0`, and otherwise the little-endian value of
the bytes; it clears nothing. -/
def Obligations.OutputRead : Prop :=
  ∀ (s : State) (rest : List Event) (addr n : Nat), n ∈ [1, 2, 4] → addr % n = 0 → 0x40 ≤ addr → addr < 0x60 →
    s.sched = .read addr n :: rest →
    (s.busy = true ∨ s.ov = false →
      step s = .next { s with sched := rest, answers := .error :: s.answers }) ∧
    (s.busy = false → s.ov = true →
      ∃ w : Word, step s = .next { s with sched := rest, answers := .okayRead w :: s.answers } ∧
        w.toNat = ∑ i ∈ Finset.range n, (s.obuf.toList.getD (addr - 0x40 + i) 0#8).toNat * 2 ^ (8 * i))

/-- 10_state.md R35: the fields of the `STATUS` word, read in every state without side effect; all are 0 after reset. -/
def Obligations.StatusRead : Prop :=
  ∀ (s : State) (rest : List Event), s.sched = .read 0x64 4 :: rest →
    ∃ w : Word, step s = .next { s with sched := rest, answers := .okayRead w :: s.answers } ∧
      w.getLsbD 0 = s.busy ∧ w.getLsbD 1 = s.done ∧ w.getLsbD 2 = s.err ∧ w.getLsbD 3 = s.ov ∧ w.getLsbD 4 = s.kv ∧
      (w.getLsbD 5 = true ↔ s.KLoaded) ∧ (w.getLsbD 6 = true ↔ s.ULoaded) ∧ w.getLsbD 7 = false ∧
      w.extractLsb' 8 8 = s.lcnt ∧
      w.extractLsb' 16 4 = (match s.ecode with
        | none => 0#4
        | some .illegalCommand => 1#4
        | some .invalidInputLength => 2#4
        | some .uninitialisedOperand => 3#4
        | some .ladderSequence => 4#4) ∧
      w.extractLsb' 20 12 = 0#12 ∧ (s.AfterReset → w = 0#32)

/-- 10_state.md R37, R38, R42: what a read of `FVALID`, `EINFO` and `ID` is answered, in every state, and after reset. -/
def Obligations.ControlWordReads : Prop :=
  ∀ (s : State) (rest : List Event),
    (s.sched = .read 0x6C 4 :: rest →
      ∃ w : Word, step s = .next { s with sched := rest, answers := .okayRead w :: s.answers } ∧
        (∀ i : Reg, w.getLsbD i = s.fv[i]) ∧ w.extractLsb' 16 16 = 0#16 ∧ (s.AfterReset → w = 0#32)) ∧
    (s.sched = .read 0x70 4 :: rest →
      ∃ w : Word, step s = .next { s with sched := rest, answers := .okayRead w :: s.answers } ∧
        w = s.einfo ∧ (s.AfterReset → w = 0#32)) ∧
    (s.sched = .read 0x7C 4 :: rest →
      step s = .next { s with sched := rest, answers := .okayRead 0x25519007#32 :: s.answers })

/-- 10_state.md R36, 60_exceptions.md R204: `CTRL` in every state. A write without `SRST`: `IE` takes bit 0, bit 1 clears `DONE`,
bit 2 clears `ERR` and `ECODE` while `BUSY = 0`, and everything else stays, `EINFO` too. A write with `SRST`: the reset state,
the other bits ignored. A read: `IE` zero-extended. -/
def Obligations.CtrlRegister : Prop :=
  ∀ (s : State) (rest : List Event),
    (∀ v : Word, s.sched = .write 0x68 4 v :: rest → v.getLsbD 31 = false →
      step s = .next { s with
        ie := v.getLsbD 0
        done := if v.getLsbD 1 then false else s.done
        err := if v.getLsbD 2 ∧ s.busy = false then false else s.err
        ecode := if v.getLsbD 2 ∧ s.busy = false then none else s.ecode
        sched := rest, answers := .okay :: s.answers }) ∧
    (∀ v : Word, s.sched = .write 0x68 4 v :: rest → v.getLsbD 31 = true →
      ∃ t, step s = .next t ∧ t.AfterReset ∧ t.sched = rest ∧ t.answers = .okay :: s.answers) ∧
    (s.sched = .read 0x68 4 :: rest →
      ∃ w : Word, step s = .next { s with sched := rest, answers := .okayRead w :: s.answers } ∧
        w.getLsbD 0 = s.ie ∧ w.extractLsb' 1 31 = 0#31)

/-- 20_memory.md R50, R60, R59, R62: every transaction is answered, once. A write is answered `OKAY` or `ERROR`, and one answered
`ERROR` changes nothing. A read is answered what the read procedure `memRead` gives in the state it finds, and changes
nothing. -/
def Obligations.ErrorAnswerChangesNothing : Prop :=
  ∀ (s : State) (rest : List Event) (addr n : Nat),
    (∀ v : Word, s.sched = .write addr n v :: rest →
      ∃ (t : State) (r : Response), step s = .next t ∧ t.answers = r :: s.answers ∧ (r = .okay ∨ r = .error) ∧
        (r = .error → t = { s with sched := rest, answers := .error :: s.answers })) ∧
    (s.sched = .read addr n :: rest →
      step s = .next { s with sched := rest, answers := memRead addr n s :: s.answers })

/-! ## Rules over all steps -/

/-- 10_state.md R23, R25, R26, R27: nothing but a reset clears a valid bit of `F`, `K`, `KBUF` or `UBUF`. -/
def Obligations.ValidBitsClearedByResetOnly : Prop :=
  ∀ s t : State, step s = .next t → (∀ e ∈ s.sched.head?, e.isReset = false) →
    (∀ i : Reg, s.fv[i] = true → t.fv[i] = true) ∧ (s.kv = true → t.kv = true) ∧
    (∀ j : Fin 32, s.kbv[j] = true → t.kbv[j] = true) ∧ (∀ j : Fin 32, s.ubv[j] = true → t.ubv[j] = true)

/-- 43_ladder.md R166, 10_state.md R22, R25, R28: who writes what. A step that is no reset changes a register of `F` only as
a destination of the completing command, `K` only by DECLE, DECK, X25519, `OBUF` only by ENC, X25519, and `LCNT` only by
LSTEP, LINIT, LADDER, X25519. -/
def Obligations.OnlyNamedCommandsWrite : Prop :=
  ∀ s t : State, step s = .next t → (∀ e ∈ s.sched.head?, e.isReset = false) →
    (∀ r : Reg, t.f[r] ≠ s.f[r] → ∃ i, s.busy = true ∧ decode s.cur = .ok i ∧ r ∈ destinations i) ∧
    (t.k ≠ s.k → ∃ i, s.busy = true ∧ decode s.cur = .ok i ∧ i.opcode ∈ [.decle, .deck, .x25519]) ∧
    (t.obuf ≠ s.obuf → ∃ i, s.busy = true ∧ decode s.cur = .ok i ∧ i.opcode ∈ [.enc, .x25519]) ∧
    (t.lcnt ≠ s.lcnt →
      ∃ i, s.busy = true ∧ decode s.cur = .ok i ∧ i.opcode ∈ [.lstep, .linit, .ladder, .x25519])

/-- 10_state.md R24, R25, R26, R27, 20_memory.md R62: no read shows anything of `F`, `K`, `KBUF` or `UBUF`: a read transaction is
answered the same in two states that differ in their contents only. -/
def Obligations.SecretsAreUnreadable : Prop :=
  ∀ (s s' : State) (f : Vector Elem 16) (k : Elem) (kb ub : Buffer) (rest : List Event) (addr n : Nat),
    s' = { s with f := f, k := k, kbuf := kb, ubuf := ub } → s.sched = .read addr n :: rest →
    ∃ r : Response,
      step s = .next { s with sched := rest, answers := r :: s.answers } ∧
      step s' = .next { s' with sched := rest, answers := r :: s.answers }

/-- 70_reset_and_hazards.md R247, 43_ladder.md R157: two states that differ in data only step to states that differ in data
only: no flag, valid bit, counter, kind of answer or turn depends on a register, the scalar or a buffer byte. -/
def Obligations.ControlIndependentOfData : Prop :=
  ∀ s s' t : State, s.eraseData = s'.eraseData → step s = .next t →
    ∃ t', step s' = .next t' ∧ t.eraseData = t'.eraseData

/-- 10_state.md R45, 70_reset_and_hazards.md R232: what stands behind a cleared valid bit is unobservable: two states that
agree everywhere else step to states that agree everywhere else, every answer included. -/
def Obligations.InvalidDataUnobservable : Prop :=
  ∀ s s' t : State, s.Inv → s.Agree s' → step s = .next t → ∃ t', step s' = .next t' ∧ t.Agree t'
end

