-- ==== Sys2Proof/Laws/Functions.lean ====
section
/-! SUPPORT. What the pure functions can answer: bounds of every result, the values of the arithmetic selection, the bytes
of an encoding. -/

namespace Sys2Proof.Machine

theorem Config_P_pos : 0 < Config.P := by decide

theorem Config_P_lt : Config.P < 2 ^ 256 := by decide

theorem Config_P_lt_255 : Config.P < 2 ^ 255 := by decide

variable {c : Curve}

theorem fadd_lt (h : 0 < c.p) (a b : Nat) : fadd c a b < c.p := Nat.mod_lt _ h

theorem fsub_lt (h : 0 < c.p) (a b : Nat) : fsub c a b < c.p := Nat.mod_lt _ h

theorem fmul_lt (h : 0 < c.p) (a b : Nat) : fmul c a b < c.p := Nat.mod_lt _ h

theorem fpowLoop_lt (h : 0 < c.p) (x e n acc : Nat) (ha : acc < c.p) : fpowLoop c x e n acc < c.p := by
  induction n generalizing acc with
  | zero => simpa [fpowLoop] using ha
  | succ n ih =>
    simp only [fpowLoop]
    split
    · exact ih _ (fmul_lt h _ _)
    · exact ih _ (fmul_lt h _ _)

theorem fpow_lt (h : 1 < c.p) (x e : Nat) : fpow c x e < c.p :=
  fpowLoop_lt (by omega) _ _ _ _ h

theorem finv_lt (h : 1 < c.p) (x : Nat) : finv c x < c.p := fpow_lt h _ _

/-- A point whose coordinates are reduced. -/
def Point.Reduced (c : Curve) (p : Point) : Prop := p.x < c.p ∧ p.z < c.p

theorem sel_lt (h : 0 < c.p) (a d b : Nat) : sel c a d b < c.p := fadd_lt h _ _

theorem cswap_reduced (h : 0 < c.p) (p q : Point) (b : Nat) :
    (cswap c p q b).1.Reduced c ∧ (cswap c p q b).2.Reduced c :=
  ⟨⟨sel_lt h _ _ _, sel_lt h _ _ _⟩, ⟨sel_lt h _ _ _, sel_lt h _ _ _⟩⟩

theorem xDbl_reduced (h : 0 < c.p) (p : Point) : (xDbl c p).Reduced c :=
  ⟨fmul_lt h _ _, fmul_lt h _ _⟩

theorem xAdd_reduced (h : 0 < c.p) (p q : Point) (u : Nat) : (xAdd c p q u).Reduced c :=
  ⟨fmul_lt h _ _, fmul_lt h _ _⟩

theorem ladderStep_reduced (h : 0 < c.p) (p q : Point) (u b : Nat) :
    (ladderStep c p q u b).1.Reduced c ∧ (ladderStep c p q u b).2.Reduced c :=
  cswap_reduced h _ _ _

/-- The bit of a scalar is 0 or 1. -/
theorem scalarBit_cases (k i : Nat) : scalarBit k i = 0 ∨ scalarBit k i = 1 := by
  unfold scalarBit
  cases k.testBit i
  · exact .inl rfl
  · exact .inr rfl

/-- With the bit 0 the selection keeps its first operand, reduced. -/
theorem sel_zero (h : 1 < c.p) (a d : Nat) : sel c a d 0 = a % c.p := by
  have h1 : 1 % c.p = 1 := Nat.mod_eq_of_lt h
  have h2 : (1 + c.p) % c.p = 1 := by rw [Nat.add_mod_right, h1]
  simp [sel, fadd, fmul, fsub, h2]

/-- With the bit 1 the selection takes its second operand, reduced. -/
theorem sel_one (h : 1 < c.p) (a d : Nat) : sel c a d 1 = d % c.p := by
  have h1 : 1 % c.p = 1 := Nat.mod_eq_of_lt h
  have h2 : (1 + (c.p - 1)) % c.p = 0 := by rw [Nat.add_sub_cancel' (Nat.le_of_lt h), Nat.mod_self]
  simp [sel, fadd, fmul, fsub, h1, h2]

/-- `cswap` with the bit 0 keeps two reduced points. -/
theorem cswap_zero (h : 1 < c.p) (p q : Point) (hp : p.Reduced c) (hq : q.Reduced c) :
    cswap c p q 0 = (p, q) := by
  simp [cswap, sel_zero h, Nat.mod_eq_of_lt hp.1, Nat.mod_eq_of_lt hp.2, Nat.mod_eq_of_lt hq.1,
    Nat.mod_eq_of_lt hq.2]

/-- `cswap` with the bit 1 exchanges two reduced points. -/
theorem cswap_one (h : 1 < c.p) (p q : Point) (hp : p.Reduced c) (hq : q.Reduced c) :
    cswap c p q 1 = (q, p) := by
  simp [cswap, sel_one h, Nat.mod_eq_of_lt hp.1, Nat.mod_eq_of_lt hp.2, Nat.mod_eq_of_lt hq.1,
    Nat.mod_eq_of_lt hq.2]

/-! ## The codec -/

theorem decodeU_lt (h : 0 < c.p) (b : Buffer) : decodeU c b < c.p := Nat.mod_lt _ h

/-- A list of `n` bytes reads below `2^(8n)`. -/
theorem leBytes_lt (l : List Byte) : leBytes l < 2 ^ (8 * l.length) := by
  induction l with
  | nil => exact Nat.one_pos
  | cons b bs ih =>
    have hb := b.isLt
    have e : 2 ^ (8 * (b :: bs).length) = 2 ^ 8 * 2 ^ (8 * bs.length) := by
      rw [← Nat.pow_add]; congr 1; simp; omega
    rw [leBytes, e]
    have := Nat.mul_le_mul_left (2 ^ 8) (Nat.succ_le_of_lt ih)
    rw [Nat.succ_eq_add_one, Nat.mul_add] at this
    omega

theorem le_lt (b : Buffer) : le b < 2 ^ 256 := by
  have := leBytes_lt b.toList
  simpa [le] using this

theorem clamp_lt (n : Nat) : clamp n < 2 ^ 255 := by
  unfold clamp
  have := Nat.mod_lt n (show 0 < 2 ^ 254 by decide)
  omega

/-- Byte `j` of an encoding. -/
theorem encodeBytes_getElem (x j : Nat) (h : j < 32) : (encodeBytes x)[j] = byteOf x j := by
  simp [encodeBytes]

/-- Bit `i` of the integer is bit `i mod 8` of byte `i div 8` (42_codec.md R131). -/
theorem leBytes_testBit (l : List Byte) (i : Nat) :
    (leBytes l).testBit i = (l.getD (i / 8) 0#8).getLsbD (i % 8) := by
  induction l generalizing i with
  | nil => simp [leBytes]
  | cons b l ih =>
    rw [leBytes, Nat.add_comm, Nat.testBit_two_pow_mul_add _ b.isLt]
    by_cases hi : i < 8
    · simp [hi, Nat.div_eq_of_lt hi, Nat.mod_eq_of_lt hi, BitVec.getLsbD]
    · rw [if_neg hi, ih, show i / 8 = (i - 8) / 8 + 1 by omega, show i % 8 = (i - 8) % 8 by omega]
      simp

theorem le_testBit (b : Buffer) (j : Fin 32) (c : Fin 8) : (le b).testBit (8 * j + c) = (b[j]).getLsbD c := by
  have h1 : (8 * (j : Nat) + c) / 8 = j := by omega
  have h2 : (8 * (j : Nat) + c) % 8 = c := by omega
  rw [le, leBytes_testBit, h1, h2]
  simp [List.getD]

theorem finv_zero : finv Config.curve 0 = 0 := by decide +kernel

theorem encodeBytes_zero : encodeBytes 0 = Vector.replicate 32 0#8 := by decide

/-! ## The arithmetic over the integers mod P -/

theorem fadd_modEq (a b : Nat) : ((fadd Config.curve a b : Nat) : ℤ) ≡ a + b [ZMOD Config.P] := by
  unfold fadd
  rw [show Config.curve.p = Config.P from rfl]
  push_cast
  exact Int.mod_modEq _ _

theorem fmul_modEq (a b : Nat) : ((fmul Config.curve a b : Nat) : ℤ) ≡ a * b [ZMOD Config.P] := by
  unfold fmul
  rw [show Config.curve.p = Config.P from rfl]
  push_cast
  exact Int.mod_modEq _ _

theorem fsub_modEq (a b : Nat) : ((fsub Config.curve a b : Nat) : ℤ) ≡ a - b [ZMOD Config.P] := by
  unfold fsub
  rw [show Config.curve.p = Config.P from rfl]
  have h : b % Config.P ≤ Config.P := Nat.le_of_lt (Nat.mod_lt _ Config_P_pos)
  push_cast [h]
  refine (Int.mod_modEq _ _).trans ?_
  have h1 : ((b : ℤ) % Config.P) ≡ b [ZMOD Config.P] := Int.mod_modEq _ _
  have h2 : (Config.P : ℤ) ≡ 0 [ZMOD Config.P] := by simp [Int.ModEq]
  have := (h2.sub h1).add_left (a : ℤ)
  rw [zero_sub, ← sub_eq_add_neg] at this
  exact this

end Sys2Proof.Machine
end

