-- ==== Sys2Proof/Laws/State.lean ====
section
/-! SUPPORT. What each named update of the state does to each field, true by definition, so that no later proof unfolds a
record update. -/

namespace Sys2Proof.Machine

variable (s : State)

/-! ## setReg -/

@[simp] theorem State.setReg_f (i : Reg) (v : Nat) : (s.setReg i v).f = s.f.set i (BitVec.ofNat 256 v) := rfl
@[simp] theorem State.setReg_fv (i : Reg) (v : Nat) : (s.setReg i v).fv = s.fv.set i true := rfl
@[simp] theorem State.setReg_k (i : Reg) (v : Nat) : (s.setReg i v).k = s.k := rfl
@[simp] theorem State.setReg_kv (i : Reg) (v : Nat) : (s.setReg i v).kv = s.kv := rfl
@[simp] theorem State.setReg_kbuf (i : Reg) (v : Nat) : (s.setReg i v).kbuf = s.kbuf := rfl
@[simp] theorem State.setReg_kbv (i : Reg) (v : Nat) : (s.setReg i v).kbv = s.kbv := rfl
@[simp] theorem State.setReg_ubuf (i : Reg) (v : Nat) : (s.setReg i v).ubuf = s.ubuf := rfl
@[simp] theorem State.setReg_ubv (i : Reg) (v : Nat) : (s.setReg i v).ubv = s.ubv := rfl
@[simp] theorem State.setReg_obuf (i : Reg) (v : Nat) : (s.setReg i v).obuf = s.obuf := rfl
@[simp] theorem State.setReg_ov (i : Reg) (v : Nat) : (s.setReg i v).ov = s.ov := rfl
@[simp] theorem State.setReg_lcnt (i : Reg) (v : Nat) : (s.setReg i v).lcnt = s.lcnt := rfl
@[simp] theorem State.setReg_busy (i : Reg) (v : Nat) : (s.setReg i v).busy = s.busy := rfl
@[simp] theorem State.setReg_done (i : Reg) (v : Nat) : (s.setReg i v).done = s.done := rfl
@[simp] theorem State.setReg_err (i : Reg) (v : Nat) : (s.setReg i v).err = s.err := rfl
@[simp] theorem State.setReg_ie (i : Reg) (v : Nat) : (s.setReg i v).ie = s.ie := rfl
@[simp] theorem State.setReg_ecode (i : Reg) (v : Nat) : (s.setReg i v).ecode = s.ecode := rfl
@[simp] theorem State.setReg_einfo (i : Reg) (v : Nat) : (s.setReg i v).einfo = s.einfo := rfl
@[simp] theorem State.setReg_cur (i : Reg) (v : Nat) : (s.setReg i v).cur = s.cur := rfl
@[simp] theorem State.setReg_sched (i : Reg) (v : Nat) : (s.setReg i v).sched = s.sched := rfl
@[simp] theorem State.setReg_answers (i : Reg) (v : Nat) : (s.setReg i v).answers = s.answers := rfl

/-! ## setK -/

@[simp] theorem State.setK_f (v : Nat) : (s.setK v).f = s.f := rfl
@[simp] theorem State.setK_fv (v : Nat) : (s.setK v).fv = s.fv := rfl
@[simp] theorem State.setK_k (v : Nat) : (s.setK v).k = BitVec.ofNat 256 v := rfl
@[simp] theorem State.setK_kv (v : Nat) : (s.setK v).kv = true := rfl
@[simp] theorem State.setK_kbuf (v : Nat) : (s.setK v).kbuf = s.kbuf := rfl
@[simp] theorem State.setK_kbv (v : Nat) : (s.setK v).kbv = s.kbv := rfl
@[simp] theorem State.setK_ubuf (v : Nat) : (s.setK v).ubuf = s.ubuf := rfl
@[simp] theorem State.setK_ubv (v : Nat) : (s.setK v).ubv = s.ubv := rfl
@[simp] theorem State.setK_obuf (v : Nat) : (s.setK v).obuf = s.obuf := rfl
@[simp] theorem State.setK_ov (v : Nat) : (s.setK v).ov = s.ov := rfl
@[simp] theorem State.setK_lcnt (v : Nat) : (s.setK v).lcnt = s.lcnt := rfl
@[simp] theorem State.setK_busy (v : Nat) : (s.setK v).busy = s.busy := rfl
@[simp] theorem State.setK_done (v : Nat) : (s.setK v).done = s.done := rfl
@[simp] theorem State.setK_err (v : Nat) : (s.setK v).err = s.err := rfl
@[simp] theorem State.setK_ie (v : Nat) : (s.setK v).ie = s.ie := rfl
@[simp] theorem State.setK_ecode (v : Nat) : (s.setK v).ecode = s.ecode := rfl
@[simp] theorem State.setK_einfo (v : Nat) : (s.setK v).einfo = s.einfo := rfl
@[simp] theorem State.setK_cur (v : Nat) : (s.setK v).cur = s.cur := rfl
@[simp] theorem State.setK_sched (v : Nat) : (s.setK v).sched = s.sched := rfl
@[simp] theorem State.setK_answers (v : Nat) : (s.setK v).answers = s.answers := rfl

/-! ## setObuf -/

@[simp] theorem State.setObuf_f (b : Buffer) : (s.setObuf b).f = s.f := rfl
@[simp] theorem State.setObuf_fv (b : Buffer) : (s.setObuf b).fv = s.fv := rfl
@[simp] theorem State.setObuf_k (b : Buffer) : (s.setObuf b).k = s.k := rfl
@[simp] theorem State.setObuf_kv (b : Buffer) : (s.setObuf b).kv = s.kv := rfl
@[simp] theorem State.setObuf_kbuf (b : Buffer) : (s.setObuf b).kbuf = s.kbuf := rfl
@[simp] theorem State.setObuf_kbv (b : Buffer) : (s.setObuf b).kbv = s.kbv := rfl
@[simp] theorem State.setObuf_ubuf (b : Buffer) : (s.setObuf b).ubuf = s.ubuf := rfl
@[simp] theorem State.setObuf_ubv (b : Buffer) : (s.setObuf b).ubv = s.ubv := rfl
@[simp] theorem State.setObuf_obuf (b : Buffer) : (s.setObuf b).obuf = b := rfl
@[simp] theorem State.setObuf_ov (b : Buffer) : (s.setObuf b).ov = true := rfl
@[simp] theorem State.setObuf_lcnt (b : Buffer) : (s.setObuf b).lcnt = s.lcnt := rfl
@[simp] theorem State.setObuf_busy (b : Buffer) : (s.setObuf b).busy = s.busy := rfl
@[simp] theorem State.setObuf_done (b : Buffer) : (s.setObuf b).done = s.done := rfl
@[simp] theorem State.setObuf_err (b : Buffer) : (s.setObuf b).err = s.err := rfl
@[simp] theorem State.setObuf_ie (b : Buffer) : (s.setObuf b).ie = s.ie := rfl
@[simp] theorem State.setObuf_ecode (b : Buffer) : (s.setObuf b).ecode = s.ecode := rfl
@[simp] theorem State.setObuf_einfo (b : Buffer) : (s.setObuf b).einfo = s.einfo := rfl
@[simp] theorem State.setObuf_cur (b : Buffer) : (s.setObuf b).cur = s.cur := rfl
@[simp] theorem State.setObuf_sched (b : Buffer) : (s.setObuf b).sched = s.sched := rfl
@[simp] theorem State.setObuf_answers (b : Buffer) : (s.setObuf b).answers = s.answers := rfl

/-! ## answer -/

@[simp] theorem State.answer_f (r : Response) : (s.answer r).f = s.f := rfl
@[simp] theorem State.answer_fv (r : Response) : (s.answer r).fv = s.fv := rfl
@[simp] theorem State.answer_k (r : Response) : (s.answer r).k = s.k := rfl
@[simp] theorem State.answer_kv (r : Response) : (s.answer r).kv = s.kv := rfl
@[simp] theorem State.answer_kbuf (r : Response) : (s.answer r).kbuf = s.kbuf := rfl
@[simp] theorem State.answer_kbv (r : Response) : (s.answer r).kbv = s.kbv := rfl
@[simp] theorem State.answer_ubuf (r : Response) : (s.answer r).ubuf = s.ubuf := rfl
@[simp] theorem State.answer_ubv (r : Response) : (s.answer r).ubv = s.ubv := rfl
@[simp] theorem State.answer_obuf (r : Response) : (s.answer r).obuf = s.obuf := rfl
@[simp] theorem State.answer_ov (r : Response) : (s.answer r).ov = s.ov := rfl
@[simp] theorem State.answer_lcnt (r : Response) : (s.answer r).lcnt = s.lcnt := rfl
@[simp] theorem State.answer_busy (r : Response) : (s.answer r).busy = s.busy := rfl
@[simp] theorem State.answer_done (r : Response) : (s.answer r).done = s.done := rfl
@[simp] theorem State.answer_err (r : Response) : (s.answer r).err = s.err := rfl
@[simp] theorem State.answer_ie (r : Response) : (s.answer r).ie = s.ie := rfl
@[simp] theorem State.answer_ecode (r : Response) : (s.answer r).ecode = s.ecode := rfl
@[simp] theorem State.answer_einfo (r : Response) : (s.answer r).einfo = s.einfo := rfl
@[simp] theorem State.answer_cur (r : Response) : (s.answer r).cur = s.cur := rfl
@[simp] theorem State.answer_sched (r : Response) : (s.answer r).sched = s.sched := rfl
@[simp] theorem State.answer_answers (r : Response) : (s.answer r).answers = r :: s.answers := rfl

/-! ## raise -/

@[simp] theorem State.raise_f (c : CmdFault) (w : Word) : (s.raise c w).f = s.f := rfl
@[simp] theorem State.raise_fv (c : CmdFault) (w : Word) : (s.raise c w).fv = s.fv := rfl
@[simp] theorem State.raise_k (c : CmdFault) (w : Word) : (s.raise c w).k = s.k := rfl
@[simp] theorem State.raise_kv (c : CmdFault) (w : Word) : (s.raise c w).kv = s.kv := rfl
@[simp] theorem State.raise_kbuf (c : CmdFault) (w : Word) : (s.raise c w).kbuf = s.kbuf := rfl
@[simp] theorem State.raise_kbv (c : CmdFault) (w : Word) : (s.raise c w).kbv = s.kbv := rfl
@[simp] theorem State.raise_ubuf (c : CmdFault) (w : Word) : (s.raise c w).ubuf = s.ubuf := rfl
@[simp] theorem State.raise_ubv (c : CmdFault) (w : Word) : (s.raise c w).ubv = s.ubv := rfl
@[simp] theorem State.raise_obuf (c : CmdFault) (w : Word) : (s.raise c w).obuf = s.obuf := rfl
@[simp] theorem State.raise_ov (c : CmdFault) (w : Word) : (s.raise c w).ov = false := rfl
@[simp] theorem State.raise_lcnt (c : CmdFault) (w : Word) : (s.raise c w).lcnt = s.lcnt := rfl
@[simp] theorem State.raise_busy (c : CmdFault) (w : Word) : (s.raise c w).busy = s.busy := rfl
@[simp] theorem State.raise_done (c : CmdFault) (w : Word) : (s.raise c w).done = true := rfl
@[simp] theorem State.raise_err (c : CmdFault) (w : Word) : (s.raise c w).err = true := rfl
@[simp] theorem State.raise_ie (c : CmdFault) (w : Word) : (s.raise c w).ie = s.ie := rfl
@[simp] theorem State.raise_ecode (c : CmdFault) (w : Word) : (s.raise c w).ecode = some c := rfl
@[simp] theorem State.raise_einfo (c : CmdFault) (w : Word) : (s.raise c w).einfo = w := rfl
@[simp] theorem State.raise_cur (c : CmdFault) (w : Word) : (s.raise c w).cur = s.cur := rfl
@[simp] theorem State.raise_sched (c : CmdFault) (w : Word) : (s.raise c w).sched = s.sched := rfl
@[simp] theorem State.raise_answers (c : CmdFault) (w : Word) : (s.raise c w).answers = s.answers := rfl

/-! ## accept -/

@[simp] theorem State.accept_f (w : Word) : (s.accept w).f = s.f := rfl
@[simp] theorem State.accept_fv (w : Word) : (s.accept w).fv = s.fv := rfl
@[simp] theorem State.accept_k (w : Word) : (s.accept w).k = s.k := rfl
@[simp] theorem State.accept_kv (w : Word) : (s.accept w).kv = s.kv := rfl
@[simp] theorem State.accept_kbuf (w : Word) : (s.accept w).kbuf = s.kbuf := rfl
@[simp] theorem State.accept_kbv (w : Word) : (s.accept w).kbv = s.kbv := rfl
@[simp] theorem State.accept_ubuf (w : Word) : (s.accept w).ubuf = s.ubuf := rfl
@[simp] theorem State.accept_ubv (w : Word) : (s.accept w).ubv = s.ubv := rfl
@[simp] theorem State.accept_obuf (w : Word) : (s.accept w).obuf = s.obuf := rfl
@[simp] theorem State.accept_ov (w : Word) : (s.accept w).ov = s.ov := rfl
@[simp] theorem State.accept_lcnt (w : Word) : (s.accept w).lcnt = s.lcnt := rfl
@[simp] theorem State.accept_busy (w : Word) : (s.accept w).busy = true := rfl
@[simp] theorem State.accept_done (w : Word) : (s.accept w).done = false := rfl
@[simp] theorem State.accept_err (w : Word) : (s.accept w).err = s.err := rfl
@[simp] theorem State.accept_ie (w : Word) : (s.accept w).ie = s.ie := rfl
@[simp] theorem State.accept_ecode (w : Word) : (s.accept w).ecode = s.ecode := rfl
@[simp] theorem State.accept_einfo (w : Word) : (s.accept w).einfo = s.einfo := rfl
@[simp] theorem State.accept_cur (w : Word) : (s.accept w).cur = w := rfl
@[simp] theorem State.accept_sched (w : Word) : (s.accept w).sched = s.sched := rfl
@[simp] theorem State.accept_answers (w : Word) : (s.accept w).answers = s.answers := rfl

/-! ## finish -/

@[simp] theorem State.finish_f : (s.finish).f = s.f := rfl
@[simp] theorem State.finish_fv : (s.finish).fv = s.fv := rfl
@[simp] theorem State.finish_k : (s.finish).k = s.k := rfl
@[simp] theorem State.finish_kv : (s.finish).kv = s.kv := rfl
@[simp] theorem State.finish_kbuf : (s.finish).kbuf = s.kbuf := rfl
@[simp] theorem State.finish_kbv : (s.finish).kbv = s.kbv := rfl
@[simp] theorem State.finish_ubuf : (s.finish).ubuf = s.ubuf := rfl
@[simp] theorem State.finish_ubv : (s.finish).ubv = s.ubv := rfl
@[simp] theorem State.finish_obuf : (s.finish).obuf = s.obuf := rfl
@[simp] theorem State.finish_ov : (s.finish).ov = s.ov := rfl
@[simp] theorem State.finish_lcnt : (s.finish).lcnt = s.lcnt := rfl
@[simp] theorem State.finish_busy : (s.finish).busy = false := rfl
@[simp] theorem State.finish_done : (s.finish).done = true := rfl
@[simp] theorem State.finish_err : (s.finish).err = s.err := rfl
@[simp] theorem State.finish_ie : (s.finish).ie = s.ie := rfl
@[simp] theorem State.finish_ecode : (s.finish).ecode = s.ecode := rfl
@[simp] theorem State.finish_einfo : (s.finish).einfo = s.einfo := rfl
@[simp] theorem State.finish_cur : (s.finish).cur = s.cur := rfl
@[simp] theorem State.finish_sched : (s.finish).sched = s.sched := rfl
@[simp] theorem State.finish_answers : (s.finish).answers = s.answers := rfl

/-! ## resetBlock -/

@[simp] theorem State.resetBlock_f : (s.resetBlock).f = State.reset.f := rfl
@[simp] theorem State.resetBlock_fv : (s.resetBlock).fv = State.reset.fv := rfl
@[simp] theorem State.resetBlock_k : (s.resetBlock).k = State.reset.k := rfl
@[simp] theorem State.resetBlock_kv : (s.resetBlock).kv = State.reset.kv := rfl
@[simp] theorem State.resetBlock_kbuf : (s.resetBlock).kbuf = State.reset.kbuf := rfl
@[simp] theorem State.resetBlock_kbv : (s.resetBlock).kbv = State.reset.kbv := rfl
@[simp] theorem State.resetBlock_ubuf : (s.resetBlock).ubuf = State.reset.ubuf := rfl
@[simp] theorem State.resetBlock_ubv : (s.resetBlock).ubv = State.reset.ubv := rfl
@[simp] theorem State.resetBlock_obuf : (s.resetBlock).obuf = State.reset.obuf := rfl
@[simp] theorem State.resetBlock_ov : (s.resetBlock).ov = State.reset.ov := rfl
@[simp] theorem State.resetBlock_lcnt : (s.resetBlock).lcnt = State.reset.lcnt := rfl
@[simp] theorem State.resetBlock_busy : (s.resetBlock).busy = State.reset.busy := rfl
@[simp] theorem State.resetBlock_done : (s.resetBlock).done = State.reset.done := rfl
@[simp] theorem State.resetBlock_err : (s.resetBlock).err = State.reset.err := rfl
@[simp] theorem State.resetBlock_ie : (s.resetBlock).ie = State.reset.ie := rfl
@[simp] theorem State.resetBlock_ecode : (s.resetBlock).ecode = State.reset.ecode := rfl
@[simp] theorem State.resetBlock_einfo : (s.resetBlock).einfo = State.reset.einfo := rfl
@[simp] theorem State.resetBlock_cur : (s.resetBlock).cur = State.reset.cur := rfl
@[simp] theorem State.resetBlock_sched : (s.resetBlock).sched = s.sched := rfl
@[simp] theorem State.resetBlock_answers : (s.resetBlock).answers = s.answers := rfl

/-! ## Registers and points -/

theorem State.reg_lt (i : Reg) : s.reg i < 2 ^ 256 := (s.f[i]).isLt

theorem State.reg_setReg_self (i : Reg) (v : Nat) (h : v < 2 ^ 256) : (s.setReg i v).reg i = v := by
  simpa [State.reg] using h

theorem State.reg_setReg_ne (i j : Reg) (v : Nat) (h : i ≠ j) : (s.setReg i v).reg j = s.reg j := by
  have hij : (i : Nat) ≠ j := fun e => h (Fin.ext e)
  simp [State.reg, Vector.getElem_set_ne, hij]

theorem State.fv_setReg (i j : Reg) (v : Nat) :
    (s.setReg i v).fv[j] = (if i = j then true else s.fv[j]) := by
  simp [Vector.getElem_set, Fin.ext_iff]

/-- Only `F` and `FV` change in a register write. -/
theorem State.setReg_eq (i : Reg) (v : Nat) :
    s.setReg i v = { s with f := s.f.set i (BitVec.ofNat 256 v), fv := s.fv.set i true } := rfl

/-- A point write is two register writes. -/
theorem State.setPoint_eq (x z : Reg) (p : Point) :
    s.setPoint x z p = (s.setReg x p.x).setReg z p.z := rfl

end Sys2Proof.Machine
end

