-- ==== Sys2Proof/Laws/Ops.lean ====
section
/-! SUPPORT. Everything each shared operation can do, said once: the life of a command, the checks, the write and read
procedures, the turn. Later proofs cite these and do not unfold the operations. -/

namespace Sys2Proof.Machine

/-! ## The life of a command -/

theorem life_of_busy {i : Instr} {e : State → State} {s : State} (h : s.busy = true) :
    life i e s = .next (e s).finish := by simp [life, h]

theorem life_of_not_busy {i : Instr} {e : State → State} {s : State} (h : s.busy = false) :
    life i e s = .next (issue i s) := by simp [life, h]

/-- A command faults with no effect of its own, or is accepted. -/
theorem issue_cases (i : Instr) (s : State) :
    (∃ c, check i s = some c ∧ issue i s = s.raise c (encode i)) ∨
      (check i s = none ∧ issue i s = s.accept (encode i)) := by
  unfold issue
  cases h : check i s with
  | none => exact .inr ⟨rfl, rfl⟩
  | some c => exact .inl ⟨c, rfl, rfl⟩

/-- The effect each command has at completion. -/
def effectOf : Instr → State → State
  | .fadd rd ra rb => effFadd rd ra rb
  | .fsub rd ra rb => effFsub rd ra rb
  | .fmul rd ra rb => effFmul rd ra rb
  | .fpow rd ra => effFpow rd ra
  | .finv rd ra => effFinv rd ra
  | .decle => effDecle
  | .deck => effDeck
  | .decu rd => effDecu rd
  | .enc ra => effEnc ra
  | .ladd => effLadd
  | .lswap => effLswap
  | .ldbl => effLdbl
  | .linit ra => effLinit ra
  | .lstep => effLstep
  | .ladder ra => effLadder ra
  | .x25519 => effX25519

/-- Every arm of `exec` is the life of its command. -/
theorem exec_eq_life (i : Instr) (s : State) : exec i s = life i (effectOf i) s := by
  cases i <;> rfl

theorem exec_of_busy {i : Instr} {s : State} (h : s.busy = true) :
    exec i s = .next (effectOf i s).finish := by rw [exec_eq_life, life_of_busy h]

theorem exec_of_not_busy {i : Instr} {s : State} (h : s.busy = false) :
    exec i s = .next (issue i s) := by rw [exec_eq_life, life_of_not_busy h]

/-- Whatever a command answers, it is one of three: completed, faulted, accepted. -/
theorem exec_cases {i : Instr} {s t : State} (h : exec i s = .next t) :
    (s.busy = true ∧ t = (effectOf i s).finish) ∨
      (s.busy = false ∧ ∃ c, check i s = some c ∧ t = s.raise c (encode i)) ∨
      (s.busy = false ∧ check i s = none ∧ t = s.accept (encode i)) := by
  cases hb : s.busy with
  | true =>
    rw [exec_of_busy hb] at h
    exact .inl ⟨rfl, by injection h with h; exact h.symm⟩
  | false =>
    rw [exec_of_not_busy hb] at h
    injection h with h
    rcases issue_cases i s with ⟨c, hc, e⟩ | ⟨hc, e⟩
    · exact .inr (.inl ⟨rfl, c, hc, by rw [← h, e]⟩)
    · exact .inr (.inr ⟨rfl, hc, by rw [← h, e]⟩)

/-! ## Buffers -/

/-- A stored byte changes at most the four input-buffer fields. -/
theorem State.storeByte_eq (s : State) (a : Nat) (b : Byte) :
    s.storeByte a b =
      { s with
        kbuf := (s.storeByte a b).kbuf, kbv := (s.storeByte a b).kbv
        ubuf := (s.storeByte a b).ubuf, ubv := (s.storeByte a b).ubv } := by
  unfold State.storeByte
  split <;> rfl

/-- So do stored bytes. -/
theorem State.storeBytes_eq (s : State) (addr : Nat) (v : Word) (n : Nat) :
    s.storeBytes addr v n =
      { s with
        kbuf := (s.storeBytes addr v n).kbuf, kbv := (s.storeBytes addr v n).kbv
        ubuf := (s.storeBytes addr v n).ubuf, ubv := (s.storeBytes addr v n).ubv } := by
  induction n with
  | zero => rfl
  | succ n ih =>
    simp only [State.storeBytes]
    rw [State.storeByte_eq, ih]

/-! ## The port -/

/-- Everything the write procedure can do (20_memory.md R61). -/
theorem memWrite_cases (addr n : Nat) (v : Word) (s : State) :
    memWrite addr n v s = .next (s.answer .error) ∨
      (addr = 0x68 ∧ n = 4 ∧ memWrite addr n v s = .next ((s.writeCtrl v).answer .okay)) ∨
      (s.busy = false ∧ addr < 0x40 ∧ legalAccess addr n = true ∧
        memWrite addr n v s = .next ((s.storeBytes addr v n).answer .okay)) ∨
      (s.busy = false ∧ s.err = false ∧ addr = 0x60 ∧ n = 4 ∧
        memWrite addr n v s = writeCmd v (s.answer .okay)) := by
  unfold memWrite
  cases hl : legalAccess addr n with
  | false => exact .inl rfl
  | true =>
    by_cases h1 : addr = 0x68 ∧ n = 4
    · exact .inr (.inl ⟨h1.1, h1.2, by simp [h1]⟩)
    · cases hb : s.busy with
      | true => exact .inl (by simp [h1])
      | false =>
        by_cases h2 : addr < 0x40
        · exact .inr (.inr (.inl ⟨rfl, h2, rfl, by simp [h1, h2]⟩))
        · by_cases h3 : addr = 0x60 ∧ n = 4
          · cases he : s.err with
            | true => exact .inl (by simp [h3])
            | false => exact .inr (.inr (.inr ⟨rfl, rfl, h3.1, h3.2, by simp [h3]⟩))
          · exact .inl (by simp [h1, h2, h3])

/-- A `CMD` write that reaches the decoder: an illegal word faults, a command makes its first move. -/
theorem writeCmd_cases (w : Word) (s : State) :
    (∃ r, decode w = .error r ∧ writeCmd w s = .next (s.raise .illegalCommand w)) ∨
      ∃ i, decode w = .ok i ∧ writeCmd w s = exec i s := by
  unfold writeCmd
  cases h : decode w with
  | error r => exact .inl ⟨r, rfl, rfl⟩
  | ok i => exact .inr ⟨i, rfl, rfl⟩

/-- The sequencer completes the latched command, passes, or, where `CUR` holds no command, stops. -/
theorem sequencer_cases (s : State) :
    (s.busy = false ∧ sequencer s = .next s) ∨
      (s.busy = true ∧ ∃ i, decode s.cur = .ok i ∧ sequencer s = exec i s) ∨
      (s.busy = true ∧ ∃ r, decode s.cur = .error r ∧ sequencer s = .fault .curNotACommand) := by
  unfold sequencer
  cases hb : s.busy with
  | false => exact .inl ⟨rfl, rfl⟩
  | true =>
    cases h : decode s.cur with
    | error r => exact .inr (.inr ⟨rfl, r, rfl, rfl⟩)
    | ok i => exact .inr (.inl ⟨rfl, i, rfl, rfl⟩)

/-- A step is the sequencer's turn, or the first event of the schedule. -/
theorem step_cases (s : State) :
    (s.sched = [] ∧ step s = sequencer s) ∨
      ∃ e rest, s.sched = e :: rest ∧ step s = perform e { s with sched := rest } := by
  unfold step turn
  cases h : s.sched with
  | nil => exact .inl ⟨rfl, rfl⟩
  | cons e rest => exact .inr ⟨e, rest, rfl, rfl⟩

/-- A write at the head of the schedule is the write procedure in the state without it. -/
theorem step_of_write {s : State} {addr n : Nat} {v : Word} {rest : List Event} (h : s.sched = .write addr n v :: rest) :
    step s = memWrite addr n v { s with sched := rest } := by
  unfold step turn
  rw [h]
  rfl

/-- A read answers and does nothing else (20_memory.md R59). -/
theorem perform_read (addr n : Nat) (s : State) :
    perform (.read addr n) s = .next (s.answer (memRead addr n s)) := rfl

/-- A `CTRL` write resets the block, or changes at most `IE`, `DONE`, `ERR` and `ECODE` (10_state.md R36). -/
theorem State.writeCtrl_cases (s : State) (v : Word) :
    (v.getLsbD 31 = true ∧ s.writeCtrl v = s.resetBlock) ∨
      (v.getLsbD 31 = false ∧
        s.writeCtrl v =
          { s with
            ie := v.getLsbD 0
            done := s.done && !v.getLsbD 1
            err := s.err && (s.busy || !v.getLsbD 2)
            ecode := if s.busy || !v.getLsbD 2 then s.ecode else none }) := by
  unfold State.writeCtrl State.clearError
  cases h31 : v.getLsbD 31 with
  | true => exact .inl ⟨rfl, by simp⟩
  | false =>
    refine .inr ⟨rfl, ?_⟩
    cases h1 : v.getLsbD 1 <;> cases h2 : v.getLsbD 2 <;> cases s.busy <;> simp

end Sys2Proof.Machine
end

