-- ==== Sys2Proof/Laws/Ladder.lean ====
section
/-! SUPPORT. The ladder's registers after each of the operations that write them, and the repeated iteration, said once. -/

namespace Sys2Proof.Machine

/-! ## Values that fit a register -/

theorem curve_p_pos : 0 < Config.curve.p := Config_P_pos

theorem curve_one_lt_p : 1 < Config.curve.p := by decide

/-- A reduced value fits a register. -/
theorem toNat_ofNat_of_lt_p {v : Nat} (h : v < Config.curve.p) : (BitVec.ofNat 256 v).toNat = v := by
  rw [BitVec.toNat_ofNat, Nat.mod_eq_of_lt (Nat.lt_trans h Config_P_lt)]

/-- A register written back with its own value holds what it held. -/
theorem ofNat_reg (s : State) (r : Reg) : BitVec.ofNat 256 (s.reg r) = s.f[r] := by simp [State.reg]

/-! ## The points after a write -/

variable (s : State) (r q : Point × Point) (p : Point)

/-- The registers after both points are written. -/
theorem State.setR01_f :
    (s.setR01 r).f = (((s.f.set 8 (BitVec.ofNat 256 r.1.x)).set 9 (BitVec.ofNat 256 r.1.z)).set 10
      (BitVec.ofNat 256 r.2.x)).set 11 (BitVec.ofNat 256 r.2.z) := rfl

/-- The registers after `t` is written. -/
theorem State.setT_f :
    (s.setPoint TX TZ p).f = (s.f.set 13 (BitVec.ofNat 256 p.x)).set 14 (BitVec.ofNat 256 p.z) := rfl

/-- Reading the ladder's registers after `r0` and `r1` are written with reduced values. -/
theorem State.setR01_reads (h0 : r.1.Reduced Config.curve) (h1 : r.2.Reduced Config.curve) :
    (s.setR01 r).r0 = r.1 ∧ (s.setR01 r).r1 = r.2 ∧ (s.setR01 r).t = s.t ∧ (s.setR01 r).reg BU = s.reg BU := by
  simp [State.r0, State.r1, State.t, State.point, State.reg, State.setR01_f, R0X, R0Z, R1X, R1Z, TX, TZ, BU,
    toNat_ofNat_of_lt_p h0.1, toNat_ofNat_of_lt_p h0.2, toNat_ofNat_of_lt_p h1.1, toNat_ofNat_of_lt_p h1.2]

/-- Reading them after `t` is written with reduced values. -/
theorem State.setT_reads (h : p.Reduced Config.curve) :
    (s.setPoint TX TZ p).t = p ∧ (s.setPoint TX TZ p).r0 = s.r0 ∧ (s.setPoint TX TZ p).r1 = s.r1 ∧
      (s.setPoint TX TZ p).reg BU = s.reg BU := by
  simp [State.r0, State.r1, State.t, State.point, State.reg, State.setT_f, R0X, R0Z, R1X, R1Z, TX, TZ, BU,
    toNat_ofNat_of_lt_p h.1, toNat_ofNat_of_lt_p h.2]

/-- The second of two writes of `r0` and `r1` stands. -/
theorem State.setR01_setR01 : (s.setR01 r).setR01 q = s.setR01 q := by
  simp only [State.setR01, State.setPoint, State.setReg]
  congr 1 <;>
  · apply Vector.ext
    intro i hi
    simp only [Vector.getElem_set]
    split_ifs <;> rfl

/-- `t` and the pair `(r0, r1)` are written in either order. -/
theorem State.setT_setR01 : (s.setPoint TX TZ p).setR01 r = (s.setR01 r).setPoint TX TZ p := by
  simp only [State.setR01, State.setPoint, State.setReg, R0X, R0Z, R1X, R1Z, TX, TZ]
  congr 1 <;>
  · apply Vector.ext
    intro i hi
    simp only [Vector.getElem_set]
    split_ifs with h1 h2 h3 h4 h5 h6 <;> first | rfl | (simp at *; omega)

/-! ## Effects do not look at `BUSY` and `DONE` -/

variable (b d : Bool)

theorem effLadd_flags : effLadd { s with busy := b, done := d } = { effLadd s with busy := b, done := d } := rfl

theorem effLswap_flags :
    effLswap { s with busy := b, done := d } = { effLswap s with busy := b, done := d } := by
  have h : ({ s with busy := b, done := d } : State).currentBit = s.currentBit := rfl
  simp only [effLswap, h]
  rfl

theorem effLdbl_flags : effLdbl { s with busy := b, done := d } = { effLdbl s with busy := b, done := d } := rfl

theorem effLstep_flags :
    effLstep { s with busy := b, done := d } = { effLstep s with busy := b, done := d } := by
  have h : ({ s with busy := b, done := d } : State).currentBit = s.currentBit := rfl
  simp only [effLstep, h]
  rfl

/-! ## The iteration -/

/-- What one iteration leaves in the ladder's registers. -/
theorem effLstep_reads :
    ((effLstep s).r0, (effLstep s).r1) = ladderStep Config.curve s.r0 s.r1 (s.reg BU) s.currentBit ∧
      (effLstep s).reg BU = s.reg BU ∧ (effLstep s).k = s.k ∧ (effLstep s).lcnt = s.lcnt - 1#8 := by
  have c := ladderStep_reduced curve_p_pos s.r0 s.r1 (s.reg BU) s.currentBit
  have h := State.setR01_reads s _ c.1 c.2
  have g := State.setT_reads (s.setR01 (ladderStep Config.curve s.r0 s.r1 (s.reg BU) s.currentBit)) _
    (xAdd_reduced curve_p_pos s.r0 s.r1 (s.reg BU))
  refine ⟨Prod.ext (g.2.1.trans h.1) (g.2.2.1.trans h.2.1), g.2.2.2.trans h.2.2.2, rfl, rfl⟩

theorem repeatLstep_zero : repeatLstep 0 s = s := by simp [repeatLstep]

theorem repeatLstep_succ (n : Nat) : repeatLstep (n + 1) s = repeatLstep n (effLstep s) := by simp [repeatLstep]

/-- The last iteration split off instead of the first. -/
theorem repeatLstep_succ' (n : Nat) : repeatLstep (n + 1) s = effLstep (repeatLstep n s) := by
  induction n generalizing s with
  | zero => simp [repeatLstep]
  | succ n ih => rw [repeatLstep_succ, ih, repeatLstep_succ]

theorem ladderLoop_zero (cv : Curve) (k u : Nat) : ladderLoop cv k u 0 r = r := by simp [ladderLoop]

theorem ladderLoop_succ (cv : Curve) (k u n : Nat) :
    ladderLoop cv k u (n + 1) r = ladderLoop cv k u n (ladderStep cv r.1 r.2 u (scalarBit k n)) := by simp [ladderLoop]

/-- The iteration for bit 0 split off: the others are those for the bits of `k / 2`. -/
theorem ladderLoop_succ' (cv : Curve) (k u n : Nat) :
    ladderLoop cv k u (n + 1) r =
      ladderStep cv (ladderLoop cv (k / 2) u n r).1 (ladderLoop cv (k / 2) u n r).2 u (scalarBit k 0) := by
  induction n generalizing r with
  | zero => simp [ladderLoop]
  | succ n ih =>
    have hb : scalarBit (k / 2) n = scalarBit k (n + 1) := by simp [scalarBit, Nat.testBit_succ]
    rw [ladderLoop_succ, ih, ladderLoop_succ, hb]

/-- Everything one iteration leaves in `t`: the differential addition of the state before it. -/
theorem effLstep_t : (effLstep s).t = xAdd Config.curve s.r0 s.r1 (s.reg BU) :=
  (State.setT_reads (s.setR01 (ladderStep Config.curve s.r0 s.r1 (s.reg BU) s.currentBit)) _
    (xAdd_reduced curve_p_pos s.r0 s.r1 (s.reg BU))).1

end Sys2Proof.Machine
end

