-- ==== Sys2Proof/Laws/Api.lean ====
section
/-! SUPPORT. The conversion and encoding that end X25519, said once. Over `effLadder` and `effX25519` a later proof cites
lemmas and generalises the state; a `show` or `rfl` across them makes the kernel unroll the 255 iterations. -/

namespace Sys2Proof.Machine

/-- X25519 is six commands' effects in order (44_x25519.md R180). -/
theorem effX25519_eq (s : State) :
    effX25519 s = effEnc RES (effFmul RES R0X RES (effFinv RES R0Z (effLadder BU (effDecu BU (effDeck s))))) := rfl

/-- LADDER is LINIT and the repeated iteration (43_ladder.md R165). -/
theorem effLadder_eq (ra : Reg) (s : State) : effLadder ra s = repeatLstep 255 (effLinit ra s) := rfl

/-- What a command in execution answers, by name, for the two long commands. -/
theorem exec_ladder_of_busy {ra : Reg} {s : State} (h : s.busy = true) :
    exec (.ladder ra) s = .next (effLadder ra s).finish := by
  simpa only [effectOf] using exec_of_busy (i := .ladder ra) h

theorem exec_x25519_of_busy {s : State} (h : s.busy = true) :
    exec .x25519 s = .next (effX25519 s).finish := by
  simpa only [effectOf] using exec_of_busy (i := .x25519) h

/-- The last three effects of X25519, from any state whose `r0` is the point `p`. -/
theorem effConvert_eq (s : State) (p : Point) (hx : s.reg R0X = p.x) (hz : s.reg R0Z = p.z) :
    effEnc RES (effFmul RES R0X RES (effFinv RES R0Z s)) =
      { s with
        f := (s.f.set 15 (BitVec.ofNat 256 (finv Config.curve p.z))).set 15
          (BitVec.ofNat 256 (fmul Config.curve p.x (finv Config.curve p.z)))
        fv := (s.fv.set 15 true).set 15 true
        obuf := encodeBytes (fmul Config.curve p.x (finv Config.curve p.z)), ov := true } := by
  have hi := Nat.lt_trans (finv_lt curve_one_lt_p p.z) Config_P_lt
  have hv := Nat.lt_trans (fmul_lt curve_p_pos p.x (finv Config.curve p.z)) Config_P_lt
  have h1 : effFinv RES R0Z s = s.setReg RES (finv Config.curve p.z) := by rw [effFinv, hz]
  rw [h1, effFmul, State.reg_setReg_self _ _ _ hi, State.reg_setReg_ne _ _ _ _ (by decide), hx, effEnc,
    State.reg_setReg_self _ _ _ hv]
  rfl

end Sys2Proof.Machine
end

