-- ==== Sys2Proof/Laws/Encoding.lean ====
section
/-! SUPPORT. The bits of a word written from its fields, the fields read back, the opcode map both ways. -/

namespace Sys2Proof

/-- Each bit of a word, by the field it lies in (30_encoding.md R80). -/
theorem Fields.word_getLsbD (x : Fields) (n : Nat) :
    x.word.getLsbD n =
      if n < 12 then x.zero.getLsbD n
      else if n < 16 then x.rb.getLsbD (n - 12)
      else if n < 20 then x.ra.getLsbD (n - 16)
      else if n < 24 then x.rd.getLsbD (n - 20)
      else x.op.getLsbD (n - 24) := by
  simp only [Fields.word, BitVec.getLsbD_append]
  rw [show n - 12 - 4 = n - 16 by omega, show n - 16 - 4 = n - 20 by omega, show n - 20 - 4 = n - 24 by omega]
  by_cases h1 : n < 12
  · simp [h1]
  by_cases h2 : n < 16
  · simp [h1, h2, show n - 12 < 4 by omega]
  by_cases h3 : n < 20
  · simp [h1, h2, h3, show ¬ n - 12 < 4 by omega, show n - 16 < 4 by omega]
  by_cases h4 : n < 24
  · simp [h1, h2, h3, h4, show ¬ n - 12 < 4 by omega, show ¬ n - 16 < 4 by omega, show n - 20 < 4 by omega]
  · simp [h1, h2, h3, h4, show ¬ n - 12 < 4 by omega, show ¬ n - 16 < 4 by omega, show ¬ n - 20 < 4 by omega]

theorem opField_word (x : Fields) : opField x.word = x.op := by
  apply BitVec.eq_of_getLsbD_eq
  intro i hi
  simp only [opField, BitVec.getLsbD_extractLsb', Fields.word_getLsbD, hi]
  rw [if_neg (by omega), if_neg (by omega), if_neg (by omega), if_neg (by omega)]
  simp [show 24 + i - 24 = i by omega]

theorem rdField_word (x : Fields) : rdField x.word = x.rd.toFin := by
  unfold rdField
  congr 1
  apply BitVec.eq_of_getLsbD_eq
  intro i hi
  simp only [BitVec.getLsbD_extractLsb', Fields.word_getLsbD, hi]
  rw [if_neg (by omega), if_neg (by omega), if_neg (by omega), if_pos (by omega)]
  simp [show 20 + i - 20 = i by omega]

theorem raField_word (x : Fields) : raField x.word = x.ra.toFin := by
  unfold raField
  congr 1
  apply BitVec.eq_of_getLsbD_eq
  intro i hi
  simp only [BitVec.getLsbD_extractLsb', Fields.word_getLsbD, hi]
  rw [if_neg (by omega), if_neg (by omega), if_pos (by omega)]
  simp [show 16 + i - 16 = i by omega]

theorem rbField_word (x : Fields) : rbField x.word = x.rb.toFin := by
  unfold rbField
  congr 1
  apply BitVec.eq_of_getLsbD_eq
  intro i hi
  simp only [BitVec.getLsbD_extractLsb', Fields.word_getLsbD, hi]
  rw [if_neg (by omega), if_pos (by omega)]
  simp [show 12 + i - 12 = i by omega]

/-- The fields of any word. -/
def fieldsOf (w : Word) : Fields :=
  ⟨opField w, BitVec.ofFin (rdField w), BitVec.ofFin (raField w), BitVec.ofFin (rbField w), w.extractLsb' 0 12⟩

/-- Every word is the word of its fields. -/
theorem fieldsOf_word (w : Word) : (fieldsOf w).word = w := by
  apply BitVec.eq_of_getLsbD_eq
  intro i hi
  rw [Fields.word_getLsbD]
  simp only [fieldsOf, opField, rdField, raField, rbField, BitVec.ofFin_toFin, BitVec.getLsbD_extractLsb']
  split
  · next h => simp [h]
  split
  · next h => simp [show i - 12 < 4 by omega]; congr 1; omega
  split
  · next h => simp [show i - 16 < 4 by omega]; congr 1; omega
  split
  · next h => simp [show i - 20 < 4 by omega]; congr 1; omega
  · simp [show i - 24 < 8 by omega]; congr 1; omega

/-- Every choice of fields is read back from its word. -/
theorem fieldsOf_of_word (x : Fields) : fieldsOf x.word = x := by
  have hz : x.word.extractLsb' 0 12 = x.zero := by
    apply BitVec.eq_of_getLsbD_eq
    intro i hi
    simp [Fields.word_getLsbD, hi]
  simp [fieldsOf, opField_word, rdField_word, raField_word, rbField_word, hz]

/-- Two choices of fields with one word are the same. -/
theorem Fields.word_inj {x y : Fields} (h : x.word = y.word) : x = y := by
  rw [← fieldsOf_of_word x, h, fieldsOf_of_word]

theorem Opcode.ofCode?_code (o : Opcode) : Opcode.ofCode? o.code = some o := by cases o <;> decide

theorem Opcode.code_of_ofCode? {c : BitVec 8} {o : Opcode} (h : Opcode.ofCode? c = some o) : o.code = c := by
  unfold Opcode.ofCode? at h
  have := List.find?_some h
  simpa using this

theorem Instr.fields_op (i : Instr) : i.fields.op = i.opcode.code := by cases i <;> rfl

theorem assemble_opcode (o : Opcode) (w : Word) : (assemble o w).opcode = o := by cases o <;> rfl

/-- A decoder's answer says which row matched. -/
theorem decode_ok_cases {w : Word} {i : Instr} (h : decode w = .ok i) :
    Opcode.ofCode? (opField w) = some i.opcode ∧ w &&& i.opcode.form.mask = i.opcode.matchWord ∧
      i = assemble i.opcode w := by
  unfold decode at h
  split at h
  · cases h
  · next o ho =>
    split at h
    · next hm =>
      cases h
      rw [assemble_opcode]
      exact ⟨ho, hm, rfl⟩
    · split at h <;> cases h

end Sys2Proof
end

