-- ==== Sys2Proof/Laws/PerInstr.lean ====
section
/-! SUPPORT. The statements made of every command as syntax, one lemma per constructor of `Instr`. -/

namespace Sys2Proof.Laws.MatchMask

/-- The word a command is written with matches its row of the opcode table, `w & mask = match` (30_encoding.md R81), and its
fields are well formed. -/
def Statement (i : Instr) : Prop :=
  encode i &&& i.opcode.form.mask = i.opcode.matchWord ∧ i.wellFormed = true

theorem r3_match (op : BitVec 8) : ∀ rd ra rb : BitVec 4,
    (Fields.word { op := op, rd := rd, ra := ra, rb := rb, zero := 0#12 }) &&& Form.r3.mask =
      (op.zeroExtend 32) <<< 24 := by
  intro rd ra rb
  apply BitVec.eq_of_getLsbD_eq
  intro n hn
  simp only [Fields.word, Form.mask, BitVec.getLsbD_and, BitVec.getLsbD_append, BitVec.getLsbD_shiftLeft,
    BitVec.truncate_eq_setWidth, BitVec.getLsbD_setWidth]
  interval_cases n <;> simp

theorem fadd (rd ra rb : Reg) : Statement (.fadd rd ra rb) := ⟨r3_match _ _ _ _, rfl⟩

theorem fsub (rd ra rb : Reg) : Statement (.fsub rd ra rb) := ⟨r3_match _ _ _ _, rfl⟩

theorem fmul (rd ra rb : Reg) : Statement (.fmul rd ra rb) := ⟨r3_match _ _ _ _, rfl⟩

theorem fpow (rd ra : Reg) : Statement (.fpow rd ra) := by
  revert rd ra; unfold Statement; decide +kernel

theorem finv (rd ra : Reg) : Statement (.finv rd ra) := by
  revert rd ra; unfold Statement; decide +kernel

theorem decle : Statement .decle := by unfold Statement; decide

theorem deck : Statement .deck := by unfold Statement; decide

theorem decu (rd : Reg) : Statement (.decu rd) := by
  revert rd; unfold Statement; decide +kernel

theorem enc (ra : Reg) : Statement (.enc ra) := by
  revert ra; unfold Statement; decide +kernel

theorem ladd : Statement .ladd := by unfold Statement; decide

theorem lswap : Statement .lswap := by unfold Statement; decide

theorem ldbl : Statement .ldbl := by unfold Statement; decide

theorem linit (ra : Reg) : Statement (.linit ra) := by
  revert ra; unfold Statement; decide +kernel

theorem lstep : Statement .lstep := by unfold Statement; decide

theorem ladder (ra : Reg) : Statement (.ladder ra) := by
  revert ra; unfold Statement; decide +kernel

theorem x25519 : Statement .x25519 := by unfold Statement; decide

end Sys2Proof.Laws.MatchMask
end

