-- ==== Sys2Proof/Tests/Slice0.lean ====
section
/-! SUPPORT. The model's own tests. Every expected value is one that spec/95_test_vectors.md or spec/96_derived_vectors.md
gives, or is written out from the encoding of 30_encoding.md; the id of the vector stands in the docstring. Then a witness
for the hypotheses of every statement. -/

namespace Sys2Proof.Tests

open Sys2Proof Sys2Proof.Machine

set_option Elab.async false

/-! ## Well-formedness -/

/-- T6.1: the fields of FADD F2, F1, F0 are well formed; in the R3 form a set `zero` bit is not (R81). -/
theorem test_wf_r3 :
    (Fields.mk 0x10 2 1 0 0).wellFormed = true ∧ (Fields.mk 0x10 2 1 0 1).wellFormed = false := by decide

/-- R2: `rb` and `zero` must be 0 (R81; T6.26). -/
theorem test_wf_r2 :
    (Fields.mk 0x21 15 9 0 0).wellFormed = true ∧ (Fields.mk 0x21 0 0 1 0).wellFormed = false ∧
      (Fields.mk 0x21 15 9 0 0x800).wellFormed = false := by decide

/-- RD: `ra`, `rb` and `zero` must be 0 (R81; T6.28). -/
theorem test_wf_rd :
    (Fields.mk 0x32 12 0 0 0).wellFormed = true ∧ (Fields.mk 0x32 1 1 0 0).wellFormed = false ∧
      (Fields.mk 0x32 1 0 1 0).wellFormed = false ∧ (Fields.mk 0x32 1 0 0 1).wellFormed = false := by decide

/-- RA: `rd`, `rb` and `zero` must be 0 (R81; T6.29). -/
theorem test_wf_ra :
    (Fields.mk 0x33 0 15 0 0).wellFormed = true ∧ (Fields.mk 0x33 1 0 0 0).wellFormed = false ∧
      (Fields.mk 0x33 0 0 1 0).wellFormed = false ∧ (Fields.mk 0x33 0 0 0 1).wellFormed = false := by decide

/-- N: every field but the opcode must be 0 (R81; T6.27, T6.31). -/
theorem test_wf_n :
    (Fields.mk 0x40 0 0 0 0).wellFormed = true ∧ (Fields.mk 0x50 1 0 0 0).wellFormed = false ∧
      (Fields.mk 0x40 0 1 0 0).wellFormed = false ∧ (Fields.mk 0x40 0 0 1 0).wellFormed = false ∧
      (Fields.mk 0x50 0 0 0 0x100).wellFormed = false := by decide

/-- R84 (a): an unassigned opcode, whatever the rest (T6.17 to T6.23). -/
theorem test_wf_opcode :
    ∀ c ∈ [0x00#8, 0x0F#8, 0x13#8, 0x22#8, 0x34#8, 0x46#8, 0x51#8, 0xFF#8],
      (Fields.mk c 0 0 0 0).wellFormed = false := by decide

/-! ## Decoding -/

/-- T6.1 to T6.3 (R3). -/
theorem test_decode_r3 :
    decode 0x10210000#32 = .ok (.fadd 2 1 0) ∧ decode 0x12fed000#32 = .ok (.fmul 15 14 13) ∧
      decode 0x11abc000#32 = .ok (.fsub 10 11 12) := by decide +kernel

/-- T6.4, T6.5 (R2), T6.8 (RD). -/
theorem test_decode_r2_rd :
    decode 0x20f00000#32 = .ok (.fpow 15 0) ∧ decode 0x21f90000#32 = .ok (.finv 15 9) ∧
      decode 0x32c00000#32 = .ok (.decu 12) := by decide +kernel

/-- T6.9, T6.13, T6.15 (RA). -/
theorem test_decode_ra :
    decode 0x330f0000#32 = .ok (.enc 15) ∧ decode 0x430c0000#32 = .ok (.linit 12) ∧
      decode 0x450c0000#32 = .ok (.ladder 12) := by decide +kernel

/-- T6.6, T6.7, T6.10 to T6.12, T6.14, T6.16 (N). -/
theorem test_decode_n :
    decode 0x30000000#32 = .ok .decle ∧ decode 0x31000000#32 = .ok .deck ∧ decode 0x40000000#32 = .ok .ladd ∧
      decode 0x41000000#32 = .ok .lswap ∧ decode 0x42000000#32 = .ok .ldbl ∧ decode 0x44000000#32 = .ok .lstep ∧
      decode 0x50000000#32 = .ok .x25519 := by decide +kernel

/-- T6.17 to T6.23. -/
theorem test_decode_unassigned :
    [0x00000000#32, 0xffffffff#32, 0x13000000#32, 0x22000000#32, 0x34000000#32, 0x46000000#32, 0x51000000#32].map
      decode = List.replicate 7 (.error .unassignedOpcode) := by decide +kernel

/-- T6.24, T6.25, T6.31. -/
theorem test_decode_zero_field :
    [0x12210001#32, 0x12210800#32, 0x50000100#32].map decode = List.replicate 3 (.error .zeroFieldSet) := by decide +kernel

/-- T6.26 to T6.30. -/
theorem test_decode_unused_field :
    [0x21001000#32, 0x40010000#32, 0x32110000#32, 0x33100000#32, 0x45100000#32].map decode =
      List.replicate 5 (.error .unusedFieldSet) := by decide +kernel

/-- The encoder writes the same words (T6.2, T6.5, T6.8, T6.15). -/
theorem test_encode :
    encode (.fmul 15 14 13) = 0x12fed000#32 ∧ encode (.finv 15 9) = 0x21f90000#32 ∧
      encode (.decu 12) = 0x32c00000#32 ∧ encode (.ladder 12) = 0x450c0000#32 := by decide +kernel

/-! ## Small states -/

/-- The next state of an answer, if it is one. -/
def nextOf : Result → Option State
  | .next s => some s
  | .fault _ => none
  | .refused _ => none

/-- A block with a command in execution, all else as after reset. -/
def running : State := { State.reset with busy := true }

/-- `running` with values in registers. -/
def withRegs (l : List (Reg × Nat)) : State := l.foldl (fun s p => s.setReg p.1 p.2) running

/-- `P − 1`, as 96_derived_vectors.md writes it. -/
def pm1 : Nat := 0x7fffffffffffffffffffffffffffffffffffffffffffffffffffffffffffffec

/-- The constant `a` of T1. -/
def aT1 : Nat := 0x0123456789abcdef0123456789abcdef0123456789abcdef0123456789abcdef

/-- The value of a register after a command completes. -/
def regAfter (i : Instr) (s : State) (r : Reg) : Option Nat := (nextOf (exec i s)).map (·.reg r)

/-- `K` after a command completes. -/
def kAfter (i : Instr) (s : State) : Option Nat := (nextOf (exec i s)).map (·.k.toNat)

/-- Bytes 0 to 31 count up (T3.7). -/
def countingBytes : Buffer :=
  #v[0x00, 0x01, 0x02, 0x03, 0x04, 0x05, 0x06, 0x07, 0x08, 0x09, 0x0a, 0x0b, 0x0c, 0x0d, 0x0e, 0x0f,
     0x10, 0x11, 0x12, 0x13, 0x14, 0x15, 0x16, 0x17, 0x18, 0x19, 0x1a, 0x1b, 0x1c, 0x1d, 0x1e, 0x1f]

/-- The scalar bytes of V1. -/
def v1Scalar : Buffer :=
  #v[0xa5, 0x46, 0xe3, 0x6b, 0xf0, 0x52, 0x7c, 0x9d, 0x3b, 0x16, 0x15, 0x4b, 0x82, 0x46, 0x5e, 0xdd,
     0x62, 0x14, 0x4c, 0x0a, 0xc1, 0xfc, 0x5a, 0x18, 0x50, 0x6a, 0x22, 0x44, 0xba, 0x44, 0x9a, 0xc4]

/-- The u-coordinate bytes of V1. -/
def v1Point : Buffer :=
  #v[0xe6, 0xdb, 0x68, 0x67, 0x58, 0x30, 0x30, 0xdb, 0x35, 0x94, 0xc1, 0xa4, 0x24, 0xb1, 0x5f, 0x7c,
     0x72, 0x66, 0x24, 0xec, 0x26, 0xb3, 0x35, 0x3b, 0x10, 0xa9, 0x03, 0xa6, 0xd0, 0xab, 0x1c, 0x4c]

/-- The output bytes of V1. -/
def v1Output : Buffer :=
  #v[0xc3, 0xda, 0x55, 0x37, 0x9d, 0xe9, 0xc6, 0x90, 0x8e, 0x94, 0xea, 0x4d, 0xf2, 0x8d, 0x08, 0x4f,
     0x32, 0xec, 0xcf, 0x03, 0x49, 0x1c, 0x71, 0xf7, 0x54, 0xb4, 0x07, 0x55, 0x77, 0xa2, 0x85, 0x52]

/-- The u-coordinate bytes of T3.12, bit 255 set. -/
def t312Point : Buffer :=
  #v[0xe5, 0x21, 0x0f, 0x12, 0x78, 0x68, 0x11, 0xd3, 0xf4, 0xb7, 0x95, 0x9d, 0x05, 0x38, 0xae, 0x2c,
     0x31, 0xdb, 0xe7, 0x10, 0x6f, 0xc0, 0x3c, 0x3e, 0xfc, 0x4c, 0xd5, 0x49, 0xc7, 0x15, 0xa4, 0x93]

/-- A buffer with a first and a last byte and `m` between. -/
def ends (a m z : Byte) : Buffer := ((Vector.replicate 32 m).set 0 a).set 31 z

/-- Both buffers of the V1 vector loaded, the block idle (P1 before the command). -/
def v1Loaded : State :=
  { State.reset with
    kbuf := v1Scalar, kbv := Vector.replicate 32 true, ubuf := v1Point, ubv := Vector.replicate 32 true }

/-- `v1Loaded` with X25519 accepted (T6.69). -/
def v1Running : State := { v1Loaded with busy := true, cur := 0x50000000#32 }

/-! ## The field arithmetic unit and the inverter -/

/-- T1.2 to T1.5: sums at and above P. -/
theorem test_fadd_reduces :
    regAfter (.fadd 2 0 1) (withRegs [(0, pm1), (1, 1)]) 2 = some 0 ∧
      regAfter (.fadd 2 0 1) (withRegs [(0, 2 ^ 254), (1, 2 ^ 254)]) 2 = some 0x13 := by decide +kernel

/-- T1.4, and in place with one register as both sources (R105). -/
theorem test_fadd_in_place :
    regAfter (.fadd 0 0 1) (withRegs [(0, aT1),
      (1, 0x7edcba9876543210fedcba9876543210fedcba9876543210fedcba9876543210)]) 0 = some 0x12 ∧
      regAfter (.fadd 3 3 3) (withRegs [(3, 2 ^ 254)]) 3 = some 0x13 := by decide +kernel

/-- T1.7, T1.13: the minuend is `F[ra]`. -/
theorem test_fsub_wraps :
    regAfter (.fsub 2 0 1) (withRegs [(0, 5), (1, 7)]) 2 = some (pm1 - 1) ∧
      regAfter (.fsub 2 0 1) (withRegs [(0, 0), (1, pm1)]) 2 = some 1 := by decide +kernel

/-- T1.10. -/
theorem test_fsub_wide :
    regAfter (.fsub 2 0 1) (withRegs [(0, aT1),
      (1, 0x7edcba9876543210fedcba9876543210fedcba9876543210fedcba9876543210)]) 2 =
      some 0x02468acf13579bde02468acf13579bde02468acf13579bde02468acf13579bcc := by decide +kernel

/-- T1.16, T1.17. -/
theorem test_fmul :
    regAfter (.fmul 2 0 1) (withRegs [(0, pm1), (1, pm1)]) 2 = some 1 ∧
      regAfter (.fmul 2 0 1) (withRegs [(0, pm1), (1, aT1)]) 2 =
        some 0x7edcba9876543210fedcba9876543210fedcba9876543210fedcba98765431fe := by decide +kernel

/-- T2.1, T2.3, T2.4. -/
theorem test_fpow_small :
    regAfter (.fpow 1 0) (State.setK (withRegs [(0, 2)]) 0xff) 1 = some 0x13 ∧
      regAfter (.fpow 1 0) (State.setK (withRegs [(0, 0)]) 0) 1 = some 1 ∧
      regAfter (.fpow 1 0) (State.setK (withRegs [(0, 0)]) 5) 1 = some 0 := by decide +kernel

/-- T2.7, T2.11: all 256 bits of the exponent count. -/
theorem test_fpow_wide :
    regAfter (.fpow 1 0) (State.setK (withRegs [(0, 2)])
      0xffffffffffffffffffffffffffffffffffffffffffffffffffffffffffffffff) 1 = some 0x8000000000 ∧
      regAfter (.fpow 1 0) (State.setK (withRegs [(0, pm1)])
        0x8000000000000000000000000000000000000000000000000000000000000001) 1 = some pm1 := by decide +kernel

/-- T2.12, T2.17. -/
theorem test_finv_corners :
    regAfter (.finv 1 0) (withRegs [(0, 0)]) 1 = some 0 ∧
      regAfter (.finv 1 0) (withRegs [(0, pm1)]) 1 = some pm1 := by decide +kernel

/-- T2.15, T2.16, T2.21 (in place). -/
theorem test_finv :
    regAfter (.finv 1 0) (withRegs [(0, 9)]) 1 =
        some 0x471c71c71c71c71c71c71c71c71c71c71c71c71c71c71c71c71c71c71c71c712 ∧
      regAfter (.finv 1 0) (withRegs [(0, 0x1db42)]) 1 =
        some 0x52036cee2b6ffe738cc740797779e89800700a4d4141d8ab75eb4dca135978a4 ∧
      regAfter (.finv 0 0) (withRegs [(0, 2)]) 0 =
        some 0x3ffffffffffffffffffffffffffffffffffffffffffffffffffffffffffffff7 := by decide +kernel

/-! ## The codec -/

/-- T3.7, T3.5: the raw scalar. -/
theorem test_decle :
    kAfter .decle { running with kbuf := countingBytes } =
        some 0x1f1e1d1c1b1a191817161514131211100f0e0d0c0b0a09080706050403020100 ∧
      kAfter .decle { running with kbuf := ends 0x07 0x00 0x80 } =
        some 0x8000000000000000000000000000000000000000000000000000000000000007 := by decide +kernel

/-- T3.3, T3.5, T3.2: clamped. -/
theorem test_deck :
    kAfter .deck { running with kbuf := v1Scalar } =
        some 0x449a44ba44226a50185afcc10a4c1462dd5e46824b15163b9d7c52f06be346a0 ∧
      kAfter .deck { running with kbuf := ends 0x07 0x00 0x80 } = some (2 ^ 254) ∧
      kAfter .deck { running with kbuf := ends 0xff 0xff 0xff } =
        some 0x7ffffffffffffffffffffffffffffffffffffffffffffffffffffffffffffff8 := by decide +kernel

/-- T3.12, T3.14, T3.17, T3.19. -/
theorem test_decu :
    regAfter (.decu 3) { running with ubuf := t312Point } 3 =
        some 0x13a415c749d54cfc3e3cc06f10e7db312cae38059d95b7f4d3116878120f21e5 ∧
      regAfter (.decu 3) { running with ubuf := ends 0xed 0xff 0x7f } 3 = some 0 ∧
      regAfter (.decu 3) { running with ubuf := ends 0xff 0xff 0xff } 3 = some 0x12 ∧
      regAfter (.decu 3) { running with ubuf := ends 0x00 0x00 0x80 } 3 = some 0 := by decide +kernel

/-- T3.28, T3.24: the bytes, and `OV`. -/
theorem test_enc :
    (nextOf (exec (.enc 4) (withRegs
        [(4, 0x4c1cabd0a603a9103b35b326ec2466727c5fb124a4c19435db3030586768dbe6)]))).map
          (fun t => (t.obuf, t.ov)) = some (v1Point, true) ∧
      (nextOf (exec (.enc 4) (withRegs [(4, pm1)]))).map (·.obuf) = some (ends 0xec 0xff 0x7f) := by decide +kernel

/-- T3.32: ENC of an invalid register faults, and the entry clears `OV`. -/
theorem test_enc_uninitialised :
    (nextOf (exec (.enc 4) { State.reset with ov := true })).map
        (fun t => (t.statusWord, t.einfo)) = some (0x00030006#32, 0x33040000#32) := by decide +kernel

/-! ## The ladder -/

/-- V2: doubling `(2, 1)` and the two ladders at the parameters `(101, 38)`. -/
theorem test_v2 :
    xDbl ⟨101, 38⟩ ⟨2, 1⟩ = ⟨9, 16⟩ ∧ ladder ⟨101, 38⟩ 3 2 = ⟨23, 74⟩ ∧ ladder ⟨101, 38⟩ 77 2 = ⟨92, 62⟩ ∧
      fmul ⟨101, 38⟩ 9 (finv ⟨101, 38⟩ 16) = 70 ∧ fmul ⟨101, 38⟩ 23 (finv ⟨101, 38⟩ 74) = 59 := by decide +kernel

/-- V3: the six ladders of base 7 at the parameters `(1009, 171)`, as affine results. -/
theorem test_v3 :
    [2, 3, 5, 34, 104, 947].map (fun k =>
      fmul ⟨1009, 171⟩ (ladder ⟨1009, 171⟩ k 7).x (finv ⟨1009, 171⟩ (ladder ⟨1009, 171⟩ k 7).z)) =
      [284, 759, 1000, 286, 810, 755] := by decide +kernel

/-- T4.1 to T4.5. -/
theorem test_cswap :
    sel Config.curve 5 7 0 = 5 ∧ sel Config.curve 5 7 1 = 7 ∧ sel Config.curve pm1 0 0 = pm1 ∧
      cswap Config.curve ⟨1, 0⟩ ⟨9, 1⟩ 0 = (⟨1, 0⟩, ⟨9, 1⟩) ∧
      cswap Config.curve ⟨1, 0⟩ ⟨9, 1⟩ 1 = (⟨9, 1⟩, ⟨1, 0⟩) := by decide +kernel

/-- T4.6 to T4.13. -/
theorem test_x_dbl :
    xDbl Config.curve ⟨0, 1⟩ = ⟨1, 0⟩ ∧ xDbl Config.curve ⟨5, 0⟩ = ⟨0x271, 0⟩ ∧
      xDbl Config.curve ⟨9, 1⟩ = ⟨0x1900, 0x9660720⟩ ∧ xDbl Config.curve ⟨1, 1⟩ = ⟨0, 0x1db420⟩ ∧
      xDbl Config.curve ⟨pm1, 1⟩ = ⟨0, 0x1db410⟩ := by decide +kernel

/-- T4.14, T4.15, T4.17. -/
theorem test_x_add :
    xAdd Config.curve ⟨1, 0⟩ ⟨9, 1⟩ 9 = ⟨0x144, 0x24⟩ ∧ xAdd Config.curve ⟨1, 0⟩ ⟨0, 1⟩ 0 = ⟨0, 0⟩ ∧
      xAdd Config.curve ⟨324, 36⟩ ⟨6400, 157681440⟩ 9 = ⟨0x6fb6e147149b10000, 0x13e5a936229926090000⟩ := by
  decide +kernel

/-- The ladder registers of T4.18 with `K = 2^254`, and `t` where given. -/
def ladderAt (lcnt : Nat) (f8 f9 f10 f11 f13 f14 : Nat) : State :=
  { (State.setK (withRegs
      [(8, f8), (9, f9), (10, f10), (11, f11), (12, 9), (13, f13), (14, f14)]) (2 ^ 254)) with
    lcnt := BitVec.ofNat 8 lcnt }

/-- The ladder registers, `LCNT` after a command. -/
def ladderAfter (i : Instr) (s : State) : Option (List Nat × Nat) :=
  (nextOf (exec i s)).map fun t => ([8, 9, 10, 11, 12, 13, 14].map t.reg, t.lcnt.toNat)

/-- T4.18, and T4.35's rule that the source is read first though it is a ladder register. -/
theorem test_linit :
    (nextOf (exec (.linit 0) (withRegs [(0, 9)]))).map
        (fun t => ([8, 9, 10, 11, 12].map t.reg, t.lcnt, t.fvalidWord)) =
      some ([1, 0, 9, 1, 9], 255#8, 0x1f01#32) ∧
    (nextOf (exec (.linit 8) (withRegs [(8, 9)]))).map (fun t => [8, 9, 10, 11, 12].map t.reg) =
      some [1, 0, 9, 1, 9] := by decide +kernel

/-- T4.19. -/
theorem test_ladd :
    ladderAfter .ladd (ladderAt 255 1 0 9 1 0 0) = some ([1, 0, 9, 1, 9, 0x144, 0x24], 255) := by decide +kernel

/-- T4.20, and bit 0 of T4.24's `K[253]`. -/
theorem test_lswap :
    ladderAfter .lswap (ladderAt 255 1 0 9 1 0x144 0x24) = some ([9, 1, 1, 0, 9, 0x144, 0x24], 255) ∧
      ladderAfter .lswap (ladderAt 254 1 0 9 1 0x144 0x24) = some ([1, 0, 9, 1, 9, 0x144, 0x24], 254) := by
  decide +kernel

/-- T4.21. -/
theorem test_ldbl :
    ladderAfter .ldbl (ladderAt 255 9 1 1 0 0x144 0x24) =
      some ([0x1900, 0x9660720, 0x144, 0x24, 9, 0x144, 0x24], 255) := by decide +kernel

/-- T4.23, T4.24: a 1 bit, then a 0 bit. -/
theorem test_lstep :
    ladderAfter .lstep (ladderAt 255 1 0 9 1 0 0) =
        some ([0x144, 0x24, 0x1900, 0x9660720, 9, 0x144, 0x24], 254) ∧
      ladderAfter .lstep (ladderAt 254 0x144 0x24 0x1900 0x9660720 0x144 0x24) =
        some ([0x280b90000, 0xf0dfdc9b2000, 0x6fb6e147149b10000, 0x13e5a936229926090000, 9,
          0x6fb6e147149b10000, 0x13e5a936229926090000], 253) := by decide +kernel

/-- T4.27: no iteration is left. -/
theorem test_lstep_sequence :
    (nextOf (exec .lstep { ladderAt 0 1 0 9 1 0 0 with busy := false, done := true })).map
        (fun t => (faultCode t.ecode, t.einfo, t.lcnt)) = some (4#4, 0x44000000#32, 0#8) := by decide +kernel

/-- T4.29, T4.31: nothing but bit 255 of the scalar set, from the base point: infinity. -/
theorem test_ladder_zero :
    ladderAfter (.ladder 5) (State.setK (withRegs [(5, 9)]) (2 ^ 255)) =
      some ([1, 0, 0x2a2e2d148a47fa084000000000, 0x4afcc1eba07ff564000000000, 9,
        0x2a2e2d148a47fa084000000000, 0x4afcc1eba07ff564000000000], 0) := by decide +kernel

/-- T4.33: u = 1 ends with `Z = 0`. -/
theorem test_ladder_one :
    regAfter (.ladder 5) (State.setK (withRegs [(5, 1)])
        0x449a44ba44226a50185afcc10a4c1462dd5e46824b15163b9d7c52f06be346a0) 8 =
      some 0x1218a37f4b273f6c8cea36bee226e13514c97e99c9d8196e1cb949b9f6dca637 ∧
    regAfter (.ladder 5) (State.setK (withRegs [(5, 1)])
        0x449a44ba44226a50185afcc10a4c1462dd5e46824b15163b9d7c52f06be346a0) 9 = some 0 := by decide +kernel

/-! ## X25519 -/

/-- V1, T5.1, T6.75: the RFC vector, its end state as the host reads it. -/
theorem test_x25519 :
    (nextOf (exec .x25519 v1Running)).map (fun t => (t.obuf, t.statusWord, t.fvalidWord)) =
      some (v1Output, 0x0000007a#32, 0x0000ff00#32) := by decide +kernel

/-- T5.6b: u = 1 gives 32 zero bytes and no fault. -/
theorem test_x25519_small_order :
    (nextOf (exec .x25519 { v1Running with ubuf := ends 1 0 0 })).map (fun t => (t.obuf, t.ov, t.err)) =
      some (Vector.replicate 32 0#8, true, false) := by decide +kernel

/-! ## The port -/

/-- T6.32 to T6.44, in the reset state. -/
theorem test_port_reads :
    memRead 0x7c 4 State.reset = .okayRead 0x25519007#32 ∧
      (∀ a ∈ [0x64, 0x68, 0x6c, 0x70], memRead a 4 State.reset = .okayRead 0#32) ∧
      (∀ x ∈ [(0x40, 4), (0x00, 4), (0x60, 4), (0x74, 4), (0x80, 4), (0x64, 2), (0x7d, 1), (0x66, 4)],
        memRead x.1 x.2 State.reset = .error) := by decide +kernel

/-- T6.45 to T6.50, in the reset state. -/
theorem test_port_writes_refused :
    ∀ x ∈ [(0x64, 4, 0xffffffff#32), (0x40, 4, 0#32), (0x7c, 4, 0#32), (0x01, 2, 0xbbaa#32), (0x02, 4, 0#32),
        (0x60, 2, 0x5000#32)],
      nextOf (memWrite x.1 x.2.1 x.2.2 State.reset) = some (State.reset.answer .error) := by decide +kernel

/-- T6.51 to T6.53. -/
theorem test_port_buffer_writes :
    (nextOf (memWrite 0x00 1 0x11#32 State.reset)).map (fun t => (t.kbuf[0], t.kbv[0], t.kbv[1])) =
        some (0x11#8, true, false) ∧
      (nextOf (memWrite 0x02 2 0x3322#32 State.reset)).map (fun t => (t.kbuf[2], t.kbuf[3], t.kbv[4])) =
        some (0x22#8, 0x33#8, false) ∧
      (nextOf (memWrite 0x04 4 0x77665544#32 State.reset)).map (fun t => t.kbuf.toList.drop 4 |>.take 4) =
        some [0x44#8, 0x55#8, 0x66#8, 0x77#8] ∧
      (nextOf (memWrite 0x3c 4 0x77665544#32 State.reset)).map (fun t => t.ubuf.toList.drop 28) =
        some [0x44#8, 0x55#8, 0x66#8, 0x77#8] := by decide +kernel

/-- T6.55 to T6.57: DECK with `KBFULL = 0`: the transaction succeeds, the command faults. -/
theorem test_port_deck_short :
    (nextOf (memWrite 0x60 4 0x31000000#32 State.reset)).map (fun t => (t.answers, t.statusWord, t.einfo)) =
      some ([.okay], 0x00020006#32, 0x31000000#32) := by decide +kernel

/-- T6.58, T6.60, T6.61: while faulted a `CMD` write is refused; `IE` and `CLRERR`. -/
theorem test_port_faulted :
    (nextOf (memWrite 0x60 4 0x31000000#32 (State.reset.raise .invalidInputLength 0))).map (·.answers) =
        some [.error] ∧
      (nextOf (memWrite 0x68 4 5#32 (State.reset.raise .invalidInputLength 0))).map
        (fun t => (t.statusWord, t.ctrlWord, t.irq)) = some (2#32, 1#32, true) := by decide +kernel

/-- T6.63 to T6.67: `CLRDONE`, the reserved bits of `CTRL`, and `SRST` over all. -/
theorem test_port_ctrl :
    (nextOf (memWrite 0x68 4 3#32 { State.reset with ie := true, done := true })).map
        (fun t => (t.statusWord, t.irq)) = some (0#32, false) ∧
      (nextOf (memWrite 0x68 4 0x7ffffff8#32 { State.reset with ie := true })).map (·.ctrlWord) = some 0#32 ∧
      nextOf (memWrite 0x68 4 0x80000001#32 v1Running) = some (State.reset.answer .okay) := by decide +kernel

/-- T6.69: acceptance. -/
theorem test_busy_accept :
    (nextOf (step (v1Loaded.withFetchWord 32 0x50000000))).map (fun t => (t.answers, t.statusWord)) =
      some ([.okay], 0x00000061#32) := by decide +kernel

/-- T6.70 to T6.74: the busy window. -/
theorem test_busy_window :
    nextOf (memWrite 0x00 4 0#32 v1Running) = some (v1Running.answer .error) ∧
      nextOf (memWrite 0x60 4 0x31000000#32 v1Running) = some (v1Running.answer .error) ∧
      memRead 0x40 4 { v1Running with ov := true } = .error ∧ memRead 0x6c 4 v1Running = .okayRead 0#32 ∧
      (nextOf (memWrite 0x68 4 1#32 v1Running)).map (fun t => (t.ie, t.irq)) = some (true, false) := by decide +kernel

/-- T6.76: a reset discards the command. -/
theorem test_busy_reset :
    nextOf (step { v1Running with sched := [.resetLine] }) = some State.reset := by decide +kernel

/-- Reset, then the u buffer of the base point (T6.77 to T6.82). -/
def baseLoaded : State :=
  { State.reset with ubuf := ends 9 0 0, ubv := Vector.replicate 32 true }

/-- T6.77 to T6.81: the first failing check decides. -/
theorem test_fault_priority :
    ∀ x ∈ [(0x50000001, 0x00010046#32), (0x50000000, 0x00020046#32), (0x44000000, 0x00030046#32),
        (0x20100000, 0x00030046#32), (0x10012000, 0x00030046#32)],
      (nextOf (step (baseLoaded.withFetchWord 32 x.1))).map (fun t => (t.answers, t.statusWord, t.einfo)) =
        some ([.okay], x.2, BitVec.ofNat 32 x.1) := by decide +kernel

/-- P1: what the host reads of the output bytes after the command. -/
theorem test_read_output :
    ∀ x ∈ [(0x40, 0x3755dac3#32), (0x48, 0x4dea948e#32), (0x5c, 0x5285a277#32)],
      memRead x.1 4 { State.reset with obuf := v1Output, ov := true } = .okayRead x.2 := by decide +kernel

/-- The decoder through the table's numbering, and a step that runs the word as the first command after reset. -/
theorem test_first_command :
    decodeTableWord 32 0x21f90000 = some (.finv 15 9) ∧
      nextOf (step (State.reset.withFetchWord 32 0x21f90000)) =
        nextOf (exec (.finv 15 9) (State.reset.answer .okay)) := by decide +kernel

/-! ## The statements' hypotheses can be met

One theorem for every statement of Certificates/Slice0/Obligations.lean that has hypotheses, named after it: concrete states
and operands that meet them together, clause by clause. -/

/-- `v1Running` has the invariants, with X25519 latched. -/
theorem test_v1Running_inv : v1Running.Inv where
  busyQuiet := by decide
  errCode := by decide
  errHidesOutput := by decide
  reduced := by decide +kernel
  outputTop := by decide
  latched := fun _ => ⟨.x25519, by decide +kernel, by decide +kernel⟩

/-- The V1 state with events to come. -/
def v1With (l : List Event) : State := { v1Running with sched := l }

/-- A block after reset with events to come. -/
def idleWith (l : List Event) : State := { State.reset with sched := l }

theorem test_hyps_ResetPutsControlState :
    (v1With [.resetLine, .complete]).sched = .resetLine :: [.complete] ∧
      (v1With [.write 0x68 4 0x80000001#32]).sched = .write 0x68 4 0x80000001#32 :: [] ∧
      (0x80000001#32).getLsbD 31 = true := by decide

/-- With nothing to come, and with a turn of the sequencer to come. -/
theorem test_hyps_IdleBlockWaits :
    v1Loaded.busy = false ∧ v1Loaded.sched = [] ∧ (idleWith [.complete]).busy = false ∧
      (idleWith [.complete]).sched = .complete :: [] := by decide

theorem test_hyps_EveryStepKeepsInvariants :
    ∃ s t : State, s.Inv ∧ step s = .next t ∧ t ≠ s :=
  ⟨v1Running, (effX25519 v1Running).finish, test_v1Running_inv, by rfl, by decide +kernel⟩

theorem test_hyps_BlockNeverStops : ∃ s : State, s.Inv ∧ s.busy = true := ⟨v1Running, test_v1Running_inv, rfl⟩

theorem test_hyps_EncodeOfDecode : ∃ (w : Word) (i : Instr), decode w = .ok i :=
  ⟨0x12fed000#32, .fmul 15 14 13, by decide +kernel⟩

theorem test_hyps_StepRunsWrittenCommand :
    ∃ (s : State) (rest : List Event) (w : Word) (i : Instr),
      s.Idle ∧ s.sched = .write 0x60 4 w :: rest ∧ decode w = .ok i :=
  ⟨idleWith [.write 0x60 4 0x10210000#32], [], 0x10210000#32, .fadd 2 1 0, ⟨rfl, rfl⟩, rfl, by decide +kernel⟩

theorem test_hyps_StepRunsLatchedCommand :
    (v1With [.complete]).busy = true ∧ decode (v1With [.complete]).cur = .ok .x25519 ∧
      (v1With [.complete]).sched = .complete :: [] ∧ v1Running.sched = [] := by decide +kernel

/-- The clauses: an illegal word and a command that passes, both idle; busy; faulted. -/
theorem test_hyps_CmdWriteProcedure :
    (idleWith [.write 0x60 4 0x50000001#32]).sched = .write 0x60 4 0x50000001#32 :: [] ∧
      checkWord 0x50000001#32 (idleWith [.write 0x60 4 0x50000001#32]) = some .illegalCommand ∧
      checkWord 0x50000000#32 v1Loaded = none ∧ v1Loaded.busy = false ∧ v1Loaded.err = false ∧
      (v1With [.write 0x60 4 0x31000000#32]).busy = true ∧
      ((idleWith [.write 0x60 4 0x31000000#32]).raise .illegalCommand 0#32).err = true := by decide +kernel

theorem test_hyps_CommandIsAcceptedOrFaults :
    v1Loaded.busy = false ∧ check .x25519 v1Loaded = none ∧
      check .ladd v1Loaded = some .uninitialisedOperand := by decide +kernel

/-- Both buffers full, neither full, one full. -/
theorem test_hyps_CheckTable :
    v1Loaded.KLoaded ∧ v1Loaded.ULoaded ∧ ¬ State.reset.KLoaded ∧ ¬ State.reset.ULoaded ∧
      ¬ (baseLoaded.KLoaded ∧ baseLoaded.ULoaded) ∧
      decode 0x13000000#32 = .error .unassignedOpcode ∧ decode 0x50000000#32 = .ok .x25519 := by
  unfold State.KLoaded State.ULoaded
  decide +kernel

theorem test_hyps_BusyBlockIsFrozen :
    ∃ (s t : State) (e : Event) (rest : List Event), s.busy = true ∧ s.sched = e :: rest ∧ e ≠ .complete ∧
      e.isReset = false ∧ step s = .next t ∧ t.ie ≠ s.ie :=
  ⟨v1With [.write 0x68 4 1#32], { v1Running with ie := true, answers := [.okay] }, .write 0x68 4 1#32, [],
    rfl, rfl, by decide, by decide, by rfl, by decide⟩

theorem test_hyps_AcceptedCommandEnds : ∃ s : State, s.Inv ∧ s.busy = true := ⟨v1Running, test_v1Running_inv, rfl⟩

theorem test_hyps_EndOfCommandRaisesIrq :
    v1Running.busy = true ∧ (State.reset.busy = false ∧ check .deck State.reset ≠ none) := by decide +kernel

/-- Each clause of the frame: a destination and no destination, and a command outside each of the three lists. -/
theorem test_hyps_CompletionFrame :
    running.busy = true ∧ (0 : Reg) ∉ destinations .lstep ∧ (14 : Reg) ∈ destinations .lstep ∧
      Instr.lstep.opcode ∉ [.decle, .deck, .x25519] ∧ Instr.lstep.opcode ∉ [.enc, .x25519] ∧
      Instr.lswap.opcode ∉ [.linit, .lstep, .ladder, .x25519] := by decide

/-- Operands at the top of the range, for both sides of the reduction. -/
theorem test_hyps_FaddResult :
    ∀ x ∈ [(pm1, 0), (pm1, 1), (pm1, pm1)],
      (withRegs [(0, x.1), (1, x.2)]).busy = true ∧
        ((withRegs [(0, x.1), (1, x.2)]).f[(0 : Reg)]).toNat < Config.P ∧
        ((withRegs [(0, x.1), (1, x.2)]).f[(1 : Reg)]).toNat < Config.P := by decide +kernel

theorem test_hyps_FsubResult :
    ∀ x ∈ [(0, pm1), (pm1, pm1), (pm1, 0)],
      (withRegs [(0, x.1), (1, x.2)]).busy = true ∧
        ((withRegs [(0, x.1), (1, x.2)]).f[(0 : Reg)]).toNat < Config.P ∧
        ((withRegs [(0, x.1), (1, x.2)]).f[(1 : Reg)]).toNat < Config.P := by decide +kernel

theorem test_hyps_FmulResult : (withRegs [(0, pm1), (1, pm1)]).busy = true := by decide +kernel

theorem test_hyps_FpowResult : (State.setK (withRegs [(0, 2)]) 5).busy = true := by decide +kernel

theorem test_hyps_FinvResult :
    ∃ (s : State) (ra : Reg) (e : Nat), s.busy = true ∧ e = Config.P - 2 ∧ (s.f[ra]).toNat = 0 :=
  ⟨running, 0, pm1 - 1, by decide +kernel⟩

theorem test_hyps_FinvInverts :
    (withRegs [(0, pm1)]).busy = true ∧ 0 < ((withRegs [(0, pm1)]).f[(0 : Reg)]).toNat ∧
      ((withRegs [(0, pm1)]).f[(0 : Reg)]).toNat < Config.P := by decide +kernel

theorem test_hyps_FpowByPMinusTwoIsFinv :
    ∃ s : State, s.busy = true ∧ s.k = BitVec.ofNat 256 (Config.P - 2) :=
  ⟨State.setK (withRegs [(0, 2)]) (Config.P - 2), by decide +kernel⟩

theorem test_hyps_DecleResult : ({ running with kbuf := countingBytes } : State).busy = true := by decide

theorem test_hyps_DeckResult : ({ running with kbuf := ends 0x07 0x00 0x80 } : State).busy = true := by decide

theorem test_hyps_DecuResult : ({ running with ubuf := ends 0xff 0xff 0xff } : State).busy = true := by decide

theorem test_hyps_EncResult : (withRegs [(4, pm1)]).busy = true := by decide +kernel

/-- V5: the largest canonical input. -/
theorem test_hyps_CodecRoundTrip : pm1 < Config.P ∧ le (ends 0xec 0xff 0x7f) < Config.P := by decide +kernel

theorem test_hyps_LaddResult : (ladderAt 255 1 0 9 1 0 0).busy = true := by decide +kernel

theorem test_hyps_LdblResult : (ladderAt 255 9 1 1 0 0x144 0x24).busy = true := by decide +kernel

/-- Both values of the bit, at the largest and the smallest `LCNT` that is allowed. -/
theorem test_hyps_LswapResult :
    ∀ x ∈ [(255, true), (1, false)],
      (ladderAt x.1 1 0 pm1 1 0 0).busy = true ∧ (ladderAt x.1 1 0 pm1 1 0 0).lcnt ≠ 0#8 ∧
        (∀ r : Reg, 8 ≤ r → r ≤ 11 → ((ladderAt x.1 1 0 pm1 1 0 0).f[r]).toNat < Config.P) ∧
        (ladderAt x.1 1 0 pm1 1 0 0).k.getLsbD ((ladderAt x.1 1 0 pm1 1 0 0).lcnt.toNat - 1) = x.2 := by
  decide +kernel

theorem test_hyps_LinitResult : (withRegs [(8, 9)]).busy = true := by decide +kernel

theorem test_hyps_LstepResult :
    ∀ x ∈ [(255, true), (1, false)],
      (ladderAt x.1 1 0 pm1 1 0 0).busy = true ∧ (ladderAt x.1 1 0 pm1 1 0 0).lcnt ≠ 0#8 ∧
        (∀ r : Reg, 8 ≤ r → r ≤ 12 → ((ladderAt x.1 1 0 pm1 1 0 0).f[r]).toNat < Config.P) ∧
        (ladderAt x.1 1 0 pm1 1 0 0).k.getLsbD ((ladderAt x.1 1 0 pm1 1 0 0).lcnt.toNat - 1) = x.2 := by
  decide +kernel

theorem test_hyps_LstepIsFourCommands : (ladderAt 1 1 0 9 1 0 0).busy = true := by decide +kernel

/-- The source may be a ladder register; the two clauses on registers take in 7, 15 and 8, 14. -/
theorem test_hyps_LadderResult :
    (withRegs [(8, 9)]).busy = true ∧ ((7 : Reg) < 8 ∨ (7 : Reg) = 15) ∧ ((15 : Reg) < 8 ∨ (15 : Reg) = 15) ∧
      ((8 : Reg) ≤ 8 ∧ (8 : Reg) < 15) ∧ ((8 : Reg) ≤ 14 ∧ (14 : Reg) < 15) := by decide +kernel

theorem test_hyps_LadderIsLinitAndLsteps : (withRegs [(0, 9)]).busy = true := by decide +kernel

/-- T4.29 and T4.31. -/
theorem test_hyps_ZeroScalarGivesInfinity :
    ∀ n ∈ [0, 2 ^ 255], (State.setK (withRegs [(5, 9)]) n).busy = true ∧
      (State.setK (withRegs [(5, 9)]) n).k.toNat % 2 ^ 255 = 0 := by decide +kernel

theorem test_hyps_X25519Result : v1Running.busy = true ∧ (7 : Reg) < 8 ∧ (8 : Reg) ≤ 8 ∧ (8 : Reg) ≤ 15 := by decide

/-- The registers of R180, and others that overlap the ladder's: `a`, `b`, `c` = 12, 15, 15 and 8, 9, 8. -/
theorem test_hyps_X25519IsCommandSequence :
    v1Loaded.Idle ∧ v1Loaded.KLoaded ∧ v1Loaded.ULoaded ∧ (15 : Reg) ≠ 8 ∧ (9 : Reg) ≠ 8 := by
  unfold State.Idle State.KLoaded State.ULoaded
  refine ⟨⟨rfl, rfl⟩, ?_, ?_, ?_, ?_⟩ <;> decide

/-- T5.8: V1 with every ignored bit flipped. -/
theorem test_hyps_IgnoredInputBits :
    ∃ s s' : State, s.busy = true ∧ s'.busy = true ∧ s.kbuf ≠ s'.kbuf ∧ s.ubuf ≠ s'.ubuf ∧
      (∀ (j : Fin 32) (b : Fin 8), ¬ (8 * (j : Nat) + b < 3 ∨ 254 ≤ 8 * (j : Nat) + b) →
        (s.kbuf[j]).getLsbD b = (s'.kbuf[j]).getLsbD b) ∧
      (∀ (j : Fin 32) (b : Fin 8), 8 * (j : Nat) + b ≠ 255 →
        (s.ubuf[j]).getLsbD b = (s'.ubuf[j]).getLsbD b) :=
  ⟨v1Running, { v1Running with
    kbuf := (v1Scalar.set 0 0xa2#8).set 31 0x04#8, ubuf := v1Point.set 31 0xcc#8 }, by decide +kernel⟩

/-- u = 1 ends with `Z = 0` (T5.6b); the bytes of P decode to 0 (T5.6d). -/
theorem test_hyps_InfinityGivesZeroOutput :
    v1Running.busy = true ∧ (ladder Config.curve (clamp (le v1Scalar)) (decodeU Config.curve (ends 1 0 0))).z = 0 ∧
      decodeU Config.curve (ends 0xed 0xff 0x7f) = 0 := by decide +kernel

/-- A wrong size, and a right size at a wrong address. -/
theorem test_hyps_MisalignedAccessRefused :
    ((3 : Nat) ∉ [1, 2, 4] ∨ 0 % 3 ≠ 0) ∧ ((4 : Nat) ∉ [1, 2, 4] ∨ 0x66 % 4 ≠ 0) ∧
      (idleWith [.write 0x66 4 0#32]).sched = .write 0x66 4 0#32 :: [] ∧
      (idleWith [.read 0x66 4]).sched = .read 0x66 4 :: [] := by decide

/-- The reserved words, the first unmapped address, a byte of a control word; written and read. -/
theorem test_hyps_UnmappedAccessRefused :
    ∀ x ∈ [(0x74, 4), (0x78, 4), (0x80, 4), (0x100, 1), (0x60, 1), (0x7e, 2)],
      ((0x74 ≤ x.1 ∧ x.1 < 0x7C) ∨ 0x80 ≤ x.1 ∨ (0x60 ≤ x.1 ∧ x.1 < 0x80 ∧ x.2 ≠ 4)) ∧
        (idleWith [.write x.1 x.2 0#32]).sched = .write x.1 x.2 0#32 :: [] ∧
        (idleWith [.read x.1 x.2]).sched = .read x.1 x.2 :: [] := by decide

theorem test_hyps_WrongDirectionRefused :
    (∀ a ∈ [0x40, 0x5c, 0x64, 0x7c], ((0x40 ≤ a ∧ a < 0x60) ∨ a ∈ [0x64, 0x6C, 0x70, 0x7C]) ∧
        (idleWith [.write a 4 0#32]).sched = .write a 4 0#32 :: []) ∧
      (∀ a ∈ [0, 0x3c, 0x60], (a < 0x40 ∨ a = 0x60) ∧ (idleWith [.read a 4]).sched = .read a 4 :: []) := by decide

/-- A refused write, a read of the output, and reads of the control words. -/
theorem test_hyps_BusyRefusesWrites :
    v1Running.busy = true ∧ ¬ (0x68 = 0x68 ∧ 2 = 4) ∧ ¬ (0x60 = 0x68 ∧ 4 = 4) ∧
      (v1With [.write 0x60 4 0x31000000#32]).sched = .write 0x60 4 0x31000000#32 :: [] ∧
      (0x40 ≤ 0x5c ∧ 0x5c < 0x60 ∧ (v1With [.read 0x5c 4]).sched = .read 0x5c 4 :: []) ∧
      (∀ a ∈ [0x64, 0x68, 0x6C, 0x70, 0x7C], (v1With [.read a 4]).sched = .read a 4 :: []) := by decide

/-- The first byte, the last word, and the two halfwords where the buffers meet. -/
theorem test_hyps_BufferWriteStoresBytes :
    ∀ x ∈ [(0, 1), (0x1e, 2), (0x20, 2), (0x3c, 4)],
      State.reset.busy = false ∧ x.2 ∈ [1, 2, 4] ∧ x.1 % x.2 = 0 ∧ x.1 < 0x40 ∧
        (idleWith [.write x.1 x.2 0#32]).sched = .write x.1 x.2 0#32 :: [] := by decide

/-- An empty output, and a full one, at both ends of it. -/
theorem test_hyps_OutputRead :
    ∀ x ∈ [(0x40, 4), (0x5f, 1), (0x5e, 2)],
      x.2 ∈ [1, 2, 4] ∧ x.1 % x.2 = 0 ∧ 0x40 ≤ x.1 ∧ x.1 < 0x60 ∧
        (idleWith [.read x.1 x.2]).sched = .read x.1 x.2 :: [] ∧ (idleWith [.read x.1 x.2]).ov = false ∧
        ({ idleWith [.read x.1 x.2] with ov := true } : State).busy = false := by decide

theorem test_reset_afterReset : State.reset.AfterReset := by constructor <;> decide

theorem test_hyps_StatusRead :
    (v1With [.read 0x64 4]).sched = .read 0x64 4 :: [] ∧ (idleWith [.read 0x64 4]).AfterReset :=
  ⟨rfl, by constructor <;> decide⟩

theorem test_hyps_ControlWordReads :
    (∀ a ∈ [0x6C, 0x70, 0x7C], (v1With [.read a 4]).sched = .read a 4 :: []) ∧
      (idleWith [.read 0x6C 4]).AfterReset ∧ (idleWith [.read 0x70 4]).AfterReset :=
  ⟨by decide, by constructor <;> decide, by constructor <;> decide⟩

theorem test_hyps_CtrlRegister :
    (v1With [.write 0x68 4 7#32]).sched = .write 0x68 4 7#32 :: [] ∧ (7#32).getLsbD 31 = false ∧
      (v1With [.write 0x68 4 0x80000007#32]).sched = .write 0x68 4 0x80000007#32 :: [] ∧
      (0x80000007#32).getLsbD 31 = true ∧ (v1With [.read 0x68 4]).sched = .read 0x68 4 :: [] := by decide

/-- A write answered `ERROR`, and a read. -/
theorem test_hyps_ErrorAnswerChangesNothing :
    (v1With [.write 0 4 0#32]).sched = .write 0 4 0#32 :: [] ∧
      step (v1With [.write 0 4 0#32]) = .next (v1Running.answer .error) ∧
      (v1With [.read 0x7c 4]).sched = .read 0x7c 4 :: [] := by
  refine ⟨?_, ?_, ?_⟩ <;> rfl

/-- Two states with different scalar bytes, the output read. -/
theorem test_hyps_SecretsAreUnreadable :
    ∃ s s' : State, s' = { s with f := s.f, k := s.k, kbuf := countingBytes, ubuf := s.ubuf } ∧ s ≠ s' ∧
      s.sched = .read 0x40 4 :: [] :=
  ⟨v1With [.read 0x40 4], { v1With [.read 0x40 4] with kbuf := countingBytes }, rfl, by decide +kernel, rfl⟩

/-- A completion that changes registers, `K`, `OBUF` and `LCNT` (the ladder leaves 0 in it), with valid bits set before it. -/
theorem test_hyps_ValidBitsClearedByResetOnly :
    step v1Running = .next (effX25519 v1Running).finish ∧ (∀ e ∈ v1Running.sched.head?, e.isReset = false) ∧
      v1Running.kbv[0] = true := by
  refine ⟨rfl, ?_, ?_⟩ <;> decide

theorem test_hyps_OnlyNamedCommandsWrite :
    ∃ s t : State, step s = .next t ∧ (∀ e ∈ s.sched.head?, e.isReset = false) ∧
      t.f[(8 : Reg)] ≠ s.f[(8 : Reg)] ∧ t.k ≠ s.k ∧ t.obuf ≠ s.obuf ∧ t.lcnt ≠ s.lcnt :=
  ⟨{ v1Running with lcnt := 7#8 }, (effX25519 { v1Running with lcnt := 7#8 }).finish, rfl, by decide, by decide +kernel⟩

/-- V1 and T5.6b: two runs that differ in data. -/
theorem test_hyps_ControlIndependentOfData :
    ∃ s s' t : State, s ≠ s' ∧ s.eraseData = s'.eraseData ∧ step s = .next t :=
  ⟨v1Running, { v1Running with ubuf := ends 1 0 0 }, (effX25519 v1Running).finish, by decide +kernel, by decide +kernel,
    rfl⟩

/-- V1 in two states that hold different things in invalid registers and in `OBUF`. -/
theorem test_hyps_InvalidDataUnobservable :
    ∃ s s' t : State, s.Inv ∧ s ≠ s' ∧ s.Agree s' ∧ step s = .next t :=
  ⟨v1Running, { v1Running with f := Vector.replicate 16 5#256, obuf := countingBytes }, (effX25519 v1Running).finish,
    test_v1Running_inv, by decide +kernel,
    { fv := rfl, f := by decide +kernel, kv := rfl, k := by decide, kbv := rfl, kbuf := fun _ _ => rfl, ubv := rfl,
      ubuf := fun _ _ => rfl, ov := rfl, obuf := by decide, lcnt := rfl, busy := rfl, done := rfl, err := rfl,
      ie := rfl, ecode := rfl, einfo := rfl, cur := fun _ => rfl, sched := rfl, answers := rfl },
    rfl⟩

end Sys2Proof.Tests
end

/-! PROOF. Every accepted command ends (spec 00_scope.md R12, 60_exceptions.md R203): an event at a busy block ends the command
or leaves it latched, so each step uses up one event of the schedule, and when none is left the sequencer completes. -/

namespace Sys2Proof.Machine

/-- One more step of a run, when the step answers a next state. -/
theorem run_succ_of_step {s t : State} (n : Nat) (h : step s = .next t) : core.run (n + 1) s = core.run n t := by
  have h' : core.step s = .next t := h
  simp only [Host.Core.run, h']

/-- From `s` to `t` the command in execution ended, or is still latched and the events to come are the same. -/
def State.EndsOrWaits (s t : State) : Prop :=
  t.busy = false ∨ (t.busy = true ∧ t.cur = s.cur ∧ t.sched = s.sched)

/-- `Complete` ends the latched command (60_exceptions.md R203). -/
theorem sequencer_ends {i : Instr} {s : State} (hb : s.busy = true) (hi : decode s.cur = .ok i) :
    ∃ t, sequencer s = .next t ∧ t.busy = false := by
  rcases sequencer_cases s with ⟨hidle, -⟩ | ⟨-, j, -, hexec⟩ | ⟨-, r, hr, -⟩
  · simp [hb] at hidle
  · exact ⟨_, hexec.trans (exec_of_busy hb), rfl⟩
  · simp [hi] at hr

/-- A `CTRL` write aborts the command with `SRST`; without it the command stays latched (10_state.md R36). -/
theorem writeCtrl_endsOrWaits {s : State} (v : Word) (hb : s.busy = true) : s.EndsOrWaits (s.writeCtrl v) := by
  rcases s.writeCtrl_cases v with ⟨-, hreset⟩ | ⟨-, hflags⟩
  · rw [hreset]
    exact .inl rfl
  · rw [hflags]
    exact .inr ⟨hb, rfl, rfl⟩

/-- While busy the port takes no write but that of `CTRL` (20_memory.md R57). -/
theorem memWrite_endsOrWaits {s : State} (addr n : Nat) (v : Word) (hb : s.busy = true) :
    ∃ t, memWrite addr n v s = .next t ∧ s.EndsOrWaits t := by
  rcases memWrite_cases addr n v s with herr | ⟨-, -, hctrl⟩ | ⟨hidle, -⟩ | ⟨hidle, -⟩
  · exact ⟨_, herr, .inr ⟨hb, rfl, rfl⟩⟩
  · exact ⟨_, hctrl, writeCtrl_endsOrWaits v hb⟩
  · simp [hb] at hidle
  · simp [hb] at hidle

/-- Every event at a busy block ends the command or leaves it latched (00_scope.md R11). -/
theorem perform_endsOrWaits {i : Instr} {s : State} (e : Event) (hb : s.busy = true) (hi : decode s.cur = .ok i) :
    ∃ t, perform e s = .next t ∧ s.EndsOrWaits t := by
  cases e with
  | read addr n => exact ⟨_, perform_read addr n s, .inr ⟨hb, rfl, rfl⟩⟩
  | write addr n v => exact memWrite_endsOrWaits addr n v hb
  | resetLine => exact ⟨_, rfl, .inl rfl⟩
  | complete =>
    obtain ⟨t, hseq, hend⟩ := sequencer_ends hb hi
    exact ⟨t, hseq, .inl hend⟩

/-- A latched command ends within one step more than there are events to come. -/
theorem latched_command_ends {i : Instr} {s : State} (hb : s.busy = true) (hi : decode s.cur = .ok i) :
    ∃ n ≤ s.sched.length + 1, ∃ t : State, core.run n s = .next t ∧ t.busy = false := by
  induction hlen : s.sched.length generalizing s with
  | zero =>
    rcases step_cases s with ⟨-, hstep⟩ | ⟨e, rest, hsched, -⟩
    · obtain ⟨t, hseq, hend⟩ := sequencer_ends hb hi
      exact ⟨1, le_rfl, t, run_succ_of_step 0 (hstep.trans hseq), hend⟩
    · simp [hsched] at hlen
  | succ m ih =>
    rcases step_cases s with ⟨hsched, -⟩ | ⟨e, rest, hsched, hstep⟩
    · simp [hsched] at hlen
    · obtain ⟨t, hperf, hend | ⟨hbt, hcur, hrest⟩⟩ := perform_endsOrWaits (s := { s with sched := rest }) e hb hi
      · exact ⟨1, by omega, t, run_succ_of_step 0 (hstep.trans hperf), hend⟩
      · have hlent : t.sched.length = m := by simpa [hrest, hsched] using hlen
        obtain ⟨n, hn, u, hrun, hend⟩ := ih hbt (hcur ▸ hi) hlent
        exact ⟨n + 1, by omega, u, (run_succ_of_step n (hstep.trans hperf)).trans hrun, hend⟩

/-- Settles O16, by induction on the number of events the schedule still holds; of the invariants only the latched command
(10_state.md R31) is needed. -/
theorem acceptedCommandEnds : Obligations.AcceptedCommandEnds := by
  unfold Obligations.AcceptedCommandEnds
  intro s hinv hb
  obtain ⟨i, hi, -⟩ := hinv.latched hb
  exact latched_command_ends hb hi

end Sys2Proof.Machine

/-! PROOF. The rules the proofs of the family 10_state.md share: what one step does for each kind of event, what an accepted
command was promised, and what an effect can change. -/

namespace Sys2Proof.Machine

/-! ## One step, by the event that is next -/

/-- A read answers from the state it finds and changes nothing else (20_memory.md R59, R62). -/
theorem step_of_read {s : State} {addr n : Nat} {rest : List Event} (h : s.sched = .read addr n :: rest) :
    step s = .next { s with sched := rest, answers := memRead addr n s :: s.answers } := by
  unfold step turn
  rw [h]
  rfl

/-- A `CTRL` write is taken in every state (20_memory.md R57). -/
theorem step_of_ctrlWrite {s : State} {v : Word} {rest : List Event} (h : s.sched = .write 0x68 4 v :: rest) :
    step s = .next (({ s with sched := rest }.writeCtrl v).answer .okay) := by
  rw [step_of_write h]
  rfl

/-- The reset line resets the block (70_reset_and_hazards.md R230). -/
theorem step_of_resetLine {s : State} {rest : List Event} (h : s.sched = .resetLine :: rest) :
    step s = .next { s with sched := rest }.resetBlock := by
  unfold step turn
  rw [h]
  rfl

theorem sequencer_of_not_busy {s : State} (hb : s.busy = false) : sequencer s = .next s := by
  simp [sequencer, hb]

/-- The sequencer completes the latched command (60_exceptions.md R203). -/
theorem sequencer_of_latched {i : Instr} {s : State} (hb : s.busy = true) (hi : decode s.cur = .ok i) :
    sequencer s = .next (effectOf i s).finish := by
  simp only [sequencer, hb, if_true, hi]
  exact exec_of_busy hb

/-- With `SRST` a `CTRL` write is a reset, whatever its other bits (10_state.md R36). -/
theorem State.writeCtrl_of_srst {v : Word} (h : v.getLsbD 31 = true) (s : State) : s.writeCtrl v = s.resetBlock := by
  rcases s.writeCtrl_cases v with ⟨-, hreset⟩ | ⟨hnot, -⟩
  · exact hreset
  · cases h.symm.trans hnot

/-- Without `SRST` it changes at most `IE`, `DONE`, `ERR` and `ECODE`. -/
theorem State.writeCtrl_of_not_srst {v : Word} (h : v.getLsbD 31 = false) (s : State) :
    s.writeCtrl v =
      { s with
        ie := v.getLsbD 0
        done := s.done && !v.getLsbD 1
        err := s.err && (s.busy || !v.getLsbD 2)
        ecode := if s.busy || !v.getLsbD 2 then s.ecode else none } := by
  rcases s.writeCtrl_cases v with ⟨hsrst, -⟩ | ⟨-, hflags⟩
  · cases h.symm.trans hsrst
  · exact hflags

/-! ## What the read procedure looks at -/

/-- A read looks at `BUSY`, at `OV` and the output bytes it covers, and at the control words, and at nothing else
(20_memory.md R62). -/
theorem memRead_congr {s t : State} (addr n : Nat) (hbusy : s.busy = t.busy) (hov : s.ov = t.ov)
    (hobuf : s.ov = true → s.obuf = t.obuf) (hstatus : s.statusWord = t.statusWord) (hctrl : s.ctrlWord = t.ctrlWord)
    (hfvalid : s.fvalidWord = t.fvalidWord) (heinfo : s.einfo = t.einfo) : memRead addr n s = memRead addr n t := by
  unfold memRead
  rw [← hbusy, ← hov, ← hstatus, ← hctrl, ← hfvalid, ← heinfo]
  cases hv : s.ov with
  | false => simp
  | true => simp [State.loadBytes, hobuf hv]

/-- Outside `OBUF` and the five readable control words a read is refused (20_memory.md R52, R62). -/
theorem memRead_of_not_readable {addr n : Nat} (hobuf : ¬ (0x40 ≤ addr ∧ addr < 0x60))
    (hword : n = 4 → addr ∉ [0x64, 0x68, 0x6C, 0x70, 0x7C]) (s : State) : memRead addr n s = .error := by
  unfold memRead
  rw [if_neg hobuf]
  by_cases hn : n = 4
  · have hnone := hword hn
    simp only [List.mem_cons, List.not_mem_nil, or_false, not_or] at hnone
    simp [hnone]
  · simp [hn]

/-! ## The checks -/

/-- All of a vector of valid bits are set exactly when each is. -/
theorem toList_all_id_iff {n : Nat} (v : Vector Bool n) : v.toList.all id = true ↔ ∀ j : Fin n, v[j] = true := by
  rw [List.all_eq_true]
  constructor
  · intro h j
    exact h _ (by simp)
  · intro h b hb
    obtain ⟨j, hj, rfl⟩ := Vector.getElem_of_mem (Vector.mem_toList_iff.1 hb)
    exact h ⟨j, hj⟩

theorem State.kbFull_iff (s : State) : s.kbFull = true ↔ s.KLoaded := toList_all_id_iff s.kbv

theorem State.ubFull_iff (s : State) : s.ubFull = true ↔ s.ULoaded := toList_all_id_iff s.ubv

/-- Everything a command needs is there: the columns 2 to 4 of 60_exceptions.md R205, as facts about the valid bits. -/
structure State.Meets (s : State) (n : Needs) : Prop where
  kbuf : n.kbuf = true → s.KLoaded
  ubuf : n.ubuf = true → s.ULoaded
  regs : ∀ r ∈ n.regs, s.fv[r] = true
  k : n.k = true → s.kv = true

/-- A command that passes its checks finds what it needs. -/
theorem State.meets_of_check {i : Instr} {s : State} (h : check i s = none) : s.Meets (needs i) := by
  unfold check checkNeeds at h
  split at h
  · cases h
  next hlength =>
    split at h
    · cases h
    next hoperand =>
      simp only [Bool.or_eq_true, Bool.and_eq_true, Bool.not_eq_true', not_or, not_and, Bool.not_eq_false,
        List.all_eq_true] at hlength hoperand
      exact ⟨fun hk => s.kbFull_iff.1 (hlength.1 hk), fun hu => s.ubFull_iff.1 (hlength.2 hu), hoperand.1, hoperand.2⟩

/-- The checks look at valid bits and `LCNT` only (60_exceptions.md R205). -/
theorem check_congr {s t : State} (i : Instr) (hfv : s.fv = t.fv) (hkv : s.kv = t.kv) (hkbv : s.kbv = t.kbv)
    (hubv : s.ubv = t.ubv) (hlcnt : s.lcnt = t.lcnt) : check i s = check i t := by
  unfold check checkNeeds State.kbFull State.ubFull
  rw [hfv, hkv, hkbv, hubv, hlcnt]

/-! ## The word of a command -/

/-- Every command's word matches the row of its opcode (30_encoding.md R81). -/
theorem encode_matchMask (i : Instr) : Laws.MatchMask.Statement i := by
  cases i with
  | fadd rd ra rb => exact Laws.MatchMask.fadd rd ra rb
  | fsub rd ra rb => exact Laws.MatchMask.fsub rd ra rb
  | fmul rd ra rb => exact Laws.MatchMask.fmul rd ra rb
  | fpow rd ra => exact Laws.MatchMask.fpow rd ra
  | finv rd ra => exact Laws.MatchMask.finv rd ra
  | decle => exact Laws.MatchMask.decle
  | deck => exact Laws.MatchMask.deck
  | decu rd => exact Laws.MatchMask.decu rd
  | enc ra => exact Laws.MatchMask.enc ra
  | ladd => exact Laws.MatchMask.ladd
  | lswap => exact Laws.MatchMask.lswap
  | ldbl => exact Laws.MatchMask.ldbl
  | linit ra => exact Laws.MatchMask.linit ra
  | lstep => exact Laws.MatchMask.lstep
  | ladder ra => exact Laws.MatchMask.ladder ra
  | x25519 => exact Laws.MatchMask.x25519

/-- The row of a command's opcode gives its operands back (30_encoding.md R82). -/
theorem assemble_encode (i : Instr) : assemble i.opcode (encode i) = i := by
  cases i <;> simp [assemble, Instr.opcode, encode, rdField_word, raField_word, rbField_word, Instr.fields]

/-- The decoder reads back the command a word was written for (30_encoding.md R83). -/
theorem decode_encode (i : Instr) : decode (encode i) = .ok i := by
  have hop : opField (encode i) = i.opcode.code := (opField_word i.fields).trans i.fields_op
  have hmatch := (encode_matchMask i).1
  simp only [decode, hop, Opcode.ofCode?_code, hmatch, if_true, assemble_encode]

/-! ## Valid bits after a write -/

theorem State.fv_setReg_self (s : State) (i : Reg) (v : Nat) : (s.setReg i v).fv[i] = true := by
  rw [State.fv_setReg, if_pos rfl]

theorem State.fv_setReg_of_fv {s : State} {j : Reg} (h : s.fv[j] = true) (i : Reg) (v : Nat) :
    (s.setReg i v).fv[j] = true := by
  rw [State.fv_setReg, h, ite_self]

/-! ## What the effect of a command can change -/

/-- `t` comes from `s` by writes of registers, `K`, `OBUF` and `LCNT`: no valid bit of `F` or `K` is cleared, and every other
field stays. -/
structure State.Extends (s t : State) : Prop where
  fv : ∀ r : Reg, s.fv[r] = true → t.fv[r] = true
  kv : s.kv = true → t.kv = true
  frame : t = { s with f := t.f, fv := t.fv, k := t.k, kv := t.kv, obuf := t.obuf, ov := t.ov, lcnt := t.lcnt }

namespace State.Extends

variable {s t u : State}

theorem refl (s : State) : s.Extends s := ⟨fun _ h => h, id, rfl⟩

theorem trans (hst : s.Extends t) (htu : t.Extends u) : s.Extends u where
  fv r h := htu.fv r (hst.fv r h)
  kv h := htu.kv (hst.kv h)
  frame := by rw [htu.frame, hst.frame]

theorem setReg (h : s.Extends t) (i : Reg) (v : Nat) : s.Extends (t.setReg i v) :=
  h.trans ⟨fun _ hr => State.fv_setReg_of_fv hr i v, id, rfl⟩

theorem setK (h : s.Extends t) (v : Nat) : s.Extends (t.setK v) := h.trans ⟨fun _ hr => hr, fun _ => rfl, rfl⟩

theorem setObuf (h : s.Extends t) (b : Buffer) : s.Extends (t.setObuf b) := h.trans ⟨fun _ hr => hr, id, rfl⟩

theorem setLcnt (h : s.Extends t) (v : BitVec 8) : s.Extends { t with lcnt := v } := h.trans ⟨fun _ hr => hr, id, rfl⟩

theorem setPoint (h : s.Extends t) (x z : Reg) (p : Point) : s.Extends (t.setPoint x z p) :=
  (h.setReg x p.x).setReg z p.z

theorem setR01 (h : s.Extends t) (r : Point × Point) : s.Extends (t.setR01 r) :=
  (h.setPoint R0X R0Z r.1).setPoint R1X R1Z r.2

theorem effLinit (h : s.Extends t) (ra : Reg) : s.Extends (effLinit ra t) :=
  ((h.setR01 _).setReg BU _).setLcnt _

theorem effLstep (h : s.Extends t) : s.Extends (effLstep t) := ((h.setR01 _).setPoint TX TZ _).setLcnt _

theorem repeatLstep (h : s.Extends t) (n : Nat) : s.Extends (repeatLstep n t) := by
  induction n with
  | zero => rwa [repeatLstep_zero]
  | succ n ih =>
    rw [repeatLstep_succ']
    exact ih.effLstep

theorem effLadder (h : s.Extends t) (ra : Reg) : s.Extends (effLadder ra t) := by
  rw [effLadder_eq]
  exact (h.effLinit ra).repeatLstep 255

theorem effX25519 (h : s.Extends t) : s.Extends (effX25519 t) := by
  rw [effX25519_eq]
  exact (((((h.setK _).setReg BU _).effLadder BU).setReg RES _).setReg RES _).setObuf _

end State.Extends

/-- The effect of every command is of that kind. -/
theorem effectOf_extends (i : Instr) (s : State) : s.Extends (effectOf i s) := by
  have h := State.Extends.refl s
  cases i with
  | fadd rd _ _ => exact h.setReg rd _
  | fsub rd _ _ => exact h.setReg rd _
  | fmul rd _ _ => exact h.setReg rd _
  | fpow rd _ => exact h.setReg rd _
  | finv rd _ => exact h.setReg rd _
  | decle => exact h.setK _
  | deck => exact h.setK _
  | decu rd => exact h.setReg rd _
  | enc _ => exact h.setObuf _
  | ladd => exact h.setPoint TX TZ _
  | lswap => exact h.setR01 _
  | ldbl => exact h.setR01 _
  | linit ra => exact h.effLinit ra
  | lstep => exact h.effLstep
  | ladder ra => exact h.effLadder ra
  | x25519 => exact h.effX25519

/-! ## The registers the ladder leaves valid -/

/-- LINIT makes valid every register an iteration reads (43_ladder.md R163). -/
theorem effLinit_fv (ra : Reg) (s : State) : ∀ r ∈ (needs .lstep).regs, (effLinit ra s).fv[r] = true := by
  simp [needs, effLinit, State.setR01, State.setPoint]

/-- They are still valid when LADDER completes. -/
theorem effLadder_fv (ra : Reg) (s : State) : ∀ r ∈ (needs .lstep).regs, (effLadder ra s).fv[r] = true := by
  intro r hr
  rw [effLadder_eq]
  exact ((State.Extends.refl (effLinit ra s)).repeatLstep 255).fv r (effLinit_fv ra s r hr)

end Sys2Proof.Machine

/-! PROOF. Every step keeps the invariants (spec 10_state.md R32, R21, R28, R31): the value part, which the effects of the
commands keep when their operands are valid, and the flag part, which each event keeps by its own rule. -/

namespace Sys2Proof.Machine

/-! ## The values a valid bit shows -/

/-- The part of the invariants that speaks of values: a valid register holds a reduced element (10_state.md R21) and a valid
output has bit 255 clear (R28). -/
structure State.GoodData (s : State) : Prop where
  reduced : ∀ r : Reg, s.fv[r] = true → s.reg r < Config.curve.p
  outputTop : s.ov = true → (s.obuf[31]).toNat < 0x80

theorem State.Inv.goodData {s : State} (h : s.Inv) : s.GoodData := ⟨h.reduced, h.outputTop⟩

/-- The top byte of an encoded element has its top bit clear (10_state.md R28, 42_codec.md R134). -/
theorem encodeBytes_top_lt {x : Nat} (hx : x < Config.curve.p) : ((encodeBytes x)[31]).toNat < 0x80 := by
  have hx255 : x < 2 ^ 255 := Nat.lt_trans hx Config_P_lt_255
  have hbyte : x >>> (8 * 31) < 0x80 := by
    rw [Nat.shiftRight_eq_div_pow]
    omega
  rw [encodeBytes_getElem x 31 (by decide), byteOf, BitVec.toNat_ofNat]
  exact lt_of_le_of_lt (Nat.mod_le _ _) hbyte

namespace State.GoodData

variable {s : State}

theorem setReg (h : s.GoodData) (i : Reg) {v : Nat} (hv : v < Config.curve.p) : (s.setReg i v).GoodData where
  reduced r hr := by
    by_cases hir : i = r
    · rw [hir, State.reg_setReg_self _ _ _ (Nat.lt_trans hv Config_P_lt)]
      exact hv
    · rw [State.fv_setReg, if_neg hir] at hr
      rw [State.reg_setReg_ne _ _ _ _ hir]
      exact h.reduced r hr
  outputTop := h.outputTop

theorem setK (h : s.GoodData) (v : Nat) : (s.setK v).GoodData := ⟨h.reduced, h.outputTop⟩

theorem setLcnt (h : s.GoodData) (v : BitVec 8) : ({ s with lcnt := v } : State).GoodData := ⟨h.reduced, h.outputTop⟩

theorem setPoint (h : s.GoodData) (x z : Reg) {p : Point} (hp : p.Reduced Config.curve) : (s.setPoint x z p).GoodData :=
  (h.setReg x hp.1).setReg z hp.2

theorem setR01 (h : s.GoodData) {r : Point × Point} (h0 : r.1.Reduced Config.curve) (h1 : r.2.Reduced Config.curve) :
    (s.setR01 r).GoodData :=
  (h.setPoint R0X R0Z h0).setPoint R1X R1Z h1

theorem effFmul (h : s.GoodData) (rd ra rb : Reg) : (effFmul rd ra rb s).GoodData :=
  h.setReg rd (fmul_lt curve_p_pos _ _)

theorem effFinv (h : s.GoodData) (rd ra : Reg) : (effFinv rd ra s).GoodData := h.setReg rd (finv_lt curve_one_lt_p _)

theorem effDeck (h : s.GoodData) : (effDeck s).GoodData := h.setK _

theorem effDecu (h : s.GoodData) (rd : Reg) : (effDecu rd s).GoodData := h.setReg rd (decodeU_lt curve_p_pos _)

theorem effEnc (h : s.GoodData) {ra : Reg} (ha : s.fv[ra] = true) : (effEnc ra s).GoodData :=
  ⟨h.reduced, fun _ => encodeBytes_top_lt (h.reduced ra ha)⟩

theorem effLinit (h : s.GoodData) {ra : Reg} (ha : s.fv[ra] = true) : (effLinit ra s).GoodData := by
  have hu : s.reg ra < Config.curve.p := h.reduced ra ha
  have h0 : (⟨1, 0⟩ : Point).Reduced Config.curve := ⟨curve_one_lt_p, curve_p_pos⟩
  have h1 : (⟨s.reg ra, 1⟩ : Point).Reduced Config.curve := ⟨hu, curve_one_lt_p⟩
  exact ((h.setR01 h0 h1).setReg BU hu).setLcnt _

theorem effLstep (h : s.GoodData) : (effLstep s).GoodData := by
  have hr := ladderStep_reduced curve_p_pos s.r0 s.r1 (s.reg BU) s.currentBit
  exact ((h.setR01 hr.1 hr.2).setPoint TX TZ (xAdd_reduced curve_p_pos _ _ _)).setLcnt _

theorem repeatLstep (h : s.GoodData) (n : Nat) : (repeatLstep n s).GoodData := by
  induction n with
  | zero => rwa [repeatLstep_zero]
  | succ n ih =>
    rw [repeatLstep_succ']
    exact ih.effLstep

theorem effLadder (h : s.GoodData) {ra : Reg} (ha : s.fv[ra] = true) : (effLadder ra s).GoodData := by
  rw [effLadder_eq]
  exact (h.effLinit ha).repeatLstep 255

/-- The six effects of X25519; what each reads, the one before it has written. -/
theorem effX25519 (h : s.GoodData) : (effX25519 s).GoodData := by
  rw [effX25519_eq]
  have hdecode := h.effDeck.effDecu BU
  have hladder := hdecode.effLadder (State.fv_setReg_self _ BU _)
  exact ((hladder.effFinv RES R0Z).effFmul RES R0X RES).effEnc (State.fv_setReg_self _ RES _)

end State.GoodData

/-- The effect of a command whose operands are valid leaves reduced elements and a canonical output. -/
theorem effectOf_goodData {i : Instr} {s : State} (h : s.GoodData) (hm : s.Meets (needs i)) :
    (effectOf i s).GoodData := by
  cases i with
  | fadd rd _ _ => exact h.setReg rd (fadd_lt curve_p_pos _ _)
  | fsub rd _ _ => exact h.setReg rd (fsub_lt curve_p_pos _ _)
  | fmul rd ra rb => exact h.effFmul rd ra rb
  | fpow rd _ => exact h.setReg rd (fpow_lt curve_one_lt_p _ _)
  | finv rd ra => exact h.effFinv rd ra
  | decle => exact h.setK _
  | deck => exact h.effDeck
  | decu rd => exact h.effDecu rd
  | enc ra => exact h.effEnc (hm.regs ra (by simp [needs]))
  | ladd => exact h.setPoint TX TZ (xAdd_reduced curve_p_pos _ _ _)
  | lswap =>
    obtain ⟨h0, h1⟩ := cswap_reduced curve_p_pos s.r0 s.r1 s.currentBit
    exact h.setR01 h0 h1
  | ldbl =>
    have ht : s.t.Reduced Config.curve :=
      ⟨h.reduced TX (hm.regs TX (by decide)), h.reduced TZ (hm.regs TZ (by decide))⟩
    exact h.setR01 (xDbl_reduced curve_p_pos s.r0) ht
  | linit ra => exact h.effLinit (hm.regs ra (by simp [needs]))
  | lstep => exact h.effLstep
  | ladder ra => exact h.effLadder (hm.regs ra (by simp [needs]))
  | x25519 => exact h.effX25519

/-! ## The invariants under each operation -/

namespace State.Inv

variable {s : State}

/-- The invariants do not speak of the host's side of the port. -/
theorem setHost (h : s.Inv) (sched : List Event) (answers : List Response) :
    ({ s with sched := sched, answers := answers } : State).Inv :=
  ⟨h.busyQuiet, h.errCode, h.errHidesOutput, h.reduced, h.outputTop, h.latched⟩

theorem answer (h : s.Inv) (r : Response) : (s.answer r).Inv := h.setHost s.sched (r :: s.answers)

theorem reset : State.reset.Inv where
  busyQuiet h := by cases h
  errCode := by decide
  errHidesOutput _ := rfl
  reduced r h := absurd h (by simp [State.reset])
  outputTop h := by cases h
  latched h := by cases h

theorem resetBlock (s : State) : s.resetBlock.Inv := reset.setHost s.sched s.answers

/-- Fault entry at an idle block: `OV` goes with the fault (10_state.md R32, 60_exceptions.md R202). -/
theorem raise (h : s.Inv) (hb : s.busy = false) (c : CmdFault) (w : Word) : (s.raise c w).Inv where
  busyQuiet hbusy := by simp [hb] at hbusy
  errCode := by simp
  errHidesOutput _ := rfl
  reduced := h.reduced
  outputTop hov := by cases hov
  latched hbusy := by simp [hb] at hbusy

/-- Acceptance latches a command that passes its checks (10_state.md R31). -/
theorem accept {i : Instr} (h : s.Inv) (he : s.err = false) (hc : check i s = none) : (s.accept (encode i)).Inv where
  busyQuiet _ := ⟨he, rfl⟩
  errCode := h.errCode
  errHidesOutput := h.errHidesOutput
  reduced := h.reduced
  outputTop := h.outputTop
  latched _ := ⟨i, decode_encode i, hc⟩

/-- Completion of a latched command (60_exceptions.md R203). -/
theorem complete {i : Instr} (h : s.Inv) (hb : s.busy = true) (hc : check i s = none) :
    (effectOf i s).finish.Inv := by
  have hdata := effectOf_goodData h.goodData (State.meets_of_check hc)
  have herr : (effectOf i s).err = false := by
    rw [(effectOf_extends i s).frame]
    exact (h.busyQuiet hb).1
  have hcode : (effectOf i s).ecode = s.ecode := by rw [(effectOf_extends i s).frame]
  have hnone : s.ecode = none := by
    have hiff := h.errCode
    rw [(h.busyQuiet hb).1] at hiff
    simpa using hiff
  exact
    { busyQuiet := fun hbusy => by cases hbusy
      errCode := by simp [herr, hcode, hnone]
      errHidesOutput := fun he => by simp [herr] at he
      reduced := hdata.reduced
      outputTop := hdata.outputTop
      latched := fun hbusy => by cases hbusy }

/-- A `CTRL` write (10_state.md R36). -/
theorem writeCtrl (h : s.Inv) (v : Word) : (s.writeCtrl v).Inv := by
  cases h31 : v.getLsbD 31 with
  | true =>
    rw [State.writeCtrl_of_srst h31]
    exact resetBlock s
  | false =>
    rw [State.writeCtrl_of_not_srst h31]
    exact
      { busyQuiet := fun hb => by simp [h.busyQuiet hb]
        errCode := by
          show (s.err && (s.busy || !v.getLsbD 2)) = true ↔
            (if (s.busy || !v.getLsbD 2) = true then s.ecode else none) ≠ none
          cases s.busy || !v.getLsbD 2 with
          | false => simp
          | true => simpa using h.errCode
        errHidesOutput := fun he => h.errHidesOutput (by simp at he; exact he.1)
        reduced := h.reduced
        outputTop := h.outputTop
        latched := h.latched }

/-- Bytes stored while the block is idle touch nothing the invariants speak of. -/
theorem storeBytes (h : s.Inv) (hb : s.busy = false) (addr : Nat) (v : Word) (n : Nat) :
    (s.storeBytes addr v n).Inv := by
  rw [State.storeBytes_eq]
  exact ⟨h.busyQuiet, h.errCode, h.errHidesOutput, h.reduced, h.outputTop, fun hbusy => by simp [hb] at hbusy⟩

/-- A `CMD` write in the IDLE state faults or is accepted (60_exceptions.md R201, R202). -/
theorem writeCmd {t : State} {w : Word} (h : s.Inv) (hb : s.busy = false) (he : s.err = false)
    (hstep : writeCmd w s = .next t) : t.Inv := by
  rcases writeCmd_cases w s with ⟨_, -, hillegal⟩ | ⟨i, -, hexec⟩
  · rw [hillegal] at hstep
    cases hstep
    exact h.raise hb _ w
  · rw [hexec] at hstep
    rcases exec_cases hstep with ⟨hbusy, -⟩ | ⟨-, c, -, rfl⟩ | ⟨-, hc, rfl⟩
    · simp [hb] at hbusy
    · exact h.raise hb c _
    · exact h.accept he hc

theorem memWrite {t : State} {addr n : Nat} {v : Word} (h : s.Inv) (hstep : memWrite addr n v s = .next t) : t.Inv := by
  rcases memWrite_cases addr n v s with herr | ⟨-, -, hctrl⟩ | ⟨hb, -, -, hstore⟩ | ⟨hb, he, -, -, hcmd⟩
  · rw [herr] at hstep
    cases hstep
    exact h.answer _
  · rw [hctrl] at hstep
    cases hstep
    exact (h.writeCtrl v).answer _
  · rw [hstore] at hstep
    cases hstep
    exact (h.storeBytes hb addr v n).answer _
  · rw [hcmd] at hstep
    exact (h.answer .okay).writeCmd hb he hstep

theorem sequencer {t : State} (h : s.Inv) (hstep : sequencer s = .next t) : t.Inv := by
  cases hb : s.busy with
  | false =>
    rw [sequencer_of_not_busy hb] at hstep
    cases hstep
    exact h
  | true =>
    obtain ⟨i, hi, hc⟩ := h.latched hb
    rw [sequencer_of_latched hb hi] at hstep
    cases hstep
    exact h.complete hb hc

theorem perform {t : State} {e : Event} (h : s.Inv) (hstep : perform e s = .next t) : t.Inv := by
  cases e with
  | read addr n =>
    rw [perform_read] at hstep
    cases hstep
    exact h.answer _
  | write addr n v => exact h.memWrite hstep
  | resetLine =>
    cases hstep
    exact resetBlock s
  | complete => exact h.sequencer hstep

end State.Inv

/-- Settles O4, by what each kind of event does: the flags by the rule of the event, the values by the bounds of the pure
functions and, where a command copies a value, by its checks. -/
theorem everyStepKeepsInvariants : Obligations.EveryStepKeepsInvariants := by
  unfold Obligations.EveryStepKeepsInvariants
  intro s t h hstep
  rcases step_cases s with ⟨-, hseq⟩ | ⟨e, rest, -, hperf⟩
  · exact h.sequencer (hseq ▸ hstep)
  · exact (h.setHost rest s.answers).perform (hperf ▸ hstep)

/-- Settles O3: the valid bits and the flags are 0, so nothing is claimed of the contents. -/
theorem resetMeetsInvariants : Obligations.ResetMeetsInvariants := State.Inv.reset

end Sys2Proof.Machine

/-! PROOF. What a cleared valid bit hides is unobservable (spec 10_state.md R45, 70_reset_and_hazards.md R232): each operation,
given equal arguments, keeps two states in agreement, and a command that passed its checks takes its arguments from behind
set valid bits. -/

namespace Sys2Proof.Machine

/-- Bytes that agree where they are valid still do after the same byte is stored in both. -/
theorem setIfInBounds_agree {v w : Buffer} {valid : Vector Bool 32} (h : ∀ j : Fin 32, valid[j] = true → v[j] = w[j])
    (a : Nat) (b : Byte) (j : Fin 32) (hj : (valid.setIfInBounds a true)[j] = true) :
    (v.setIfInBounds a b)[j] = (w.setIfInBounds a b)[j] := by
  simp only [Fin.getElem_fin, Vector.getElem_setIfInBounds] at hj ⊢
  by_cases ha : a = j
  · simp [ha]
  · rw [if_neg ha] at hj
    rw [if_neg ha, if_neg ha]
    exact h j hj

namespace State.Agree

variable {s t : State}

/-! ## What two agreeing states read the same -/

theorem reg (h : s.Agree t) {r : Reg} (hr : s.fv[r] = true) : s.reg r = t.reg r :=
  congrArg BitVec.toNat (h.f r hr)

theorem point (h : s.Agree t) {x z : Reg} (hx : s.fv[x] = true) (hz : s.fv[z] = true) : s.point x z = t.point x z := by
  rw [State.point, State.point, h.reg hx, h.reg hz]

theorem currentBit (h : s.Agree t) (hk : s.kv = true) : s.currentBit = t.currentBit := by
  rw [State.currentBit, State.currentBit, h.k hk, h.lcnt]

theorem kbuf_eq (h : s.Agree t) (hk : s.KLoaded) : s.kbuf = t.kbuf :=
  Vector.ext fun j hj => h.kbuf ⟨j, hj⟩ (hk ⟨j, hj⟩)

theorem ubuf_eq (h : s.Agree t) (hu : s.ULoaded) : s.ubuf = t.ubuf :=
  Vector.ext fun j hj => h.ubuf ⟨j, hj⟩ (hu ⟨j, hj⟩)

theorem check_eq (h : s.Agree t) (i : Instr) : check i s = check i t := check_congr i h.fv h.kv h.kbv h.ubv h.lcnt

theorem memRead_eq (h : s.Agree t) (addr n : Nat) : memRead addr n s = memRead addr n t := by
  have hstatus : s.statusWord = t.statusWord := by
    simp only [State.statusWord, State.kbFull, State.ubFull, h.ecode, h.lcnt, h.ubv, h.kbv, h.kv, h.ov, h.err, h.done,
      h.busy]
  have hctrl : s.ctrlWord = t.ctrlWord := by rw [State.ctrlWord, State.ctrlWord, h.ie]
  have hfvalid : s.fvalidWord = t.fvalidWord := by rw [State.fvalidWord, State.fvalidWord, h.fv]
  exact memRead_congr addr n h.busy h.ov h.obuf hstatus hctrl hfvalid h.einfo

/-! ## The same write in both states -/

theorem setReg (h : s.Agree t) (i : Reg) {v w : Nat} (hvw : v = w) : (s.setReg i v).Agree (t.setReg i w) where
  __ := h
  fv := congrArg (·.set i true) h.fv
  f r hr := by
    subst hvw
    by_cases hir : (i : Nat) = r
    · simp [hir]
    · rw [State.fv_setReg, if_neg (fun e => hir (congrArg Fin.val e))] at hr
      simpa [hir] using h.f r hr

theorem setK (h : s.Agree t) {v w : Nat} (hvw : v = w) : (s.setK v).Agree (t.setK w) where
  __ := h
  kv := rfl
  k _ := congrArg (BitVec.ofNat 256) hvw

theorem setObuf (h : s.Agree t) {b c : Buffer} (hbc : b = c) : (s.setObuf b).Agree (t.setObuf c) where
  __ := h
  ov := rfl
  obuf _ := hbc

theorem setLcnt (h : s.Agree t) {v w : BitVec 8} (hvw : v = w) :
    ({ s with lcnt := v } : State).Agree { t with lcnt := w } where
  __ := h
  lcnt := hvw

theorem setPoint (h : s.Agree t) (x z : Reg) {p q : Point} (hpq : p = q) : (s.setPoint x z p).Agree (t.setPoint x z q) :=
  (h.setReg x (congrArg Point.x hpq)).setReg z (congrArg Point.z hpq)

theorem setR01 (h : s.Agree t) {r q : Point × Point} (hrq : r = q) : (s.setR01 r).Agree (t.setR01 q) :=
  (h.setPoint R0X R0Z (congrArg Prod.fst hrq)).setPoint R1X R1Z (congrArg Prod.snd hrq)

theorem setSched (h : s.Agree t) (sched : List Event) :
    ({ s with sched := sched } : State).Agree { t with sched := sched } where
  __ := h
  sched := rfl

theorem answer (h : s.Agree t) {r r' : Response} (hr : r = r') : (s.answer r).Agree (t.answer r') where
  __ := h
  answers := congrArg₂ List.cons hr h.answers

theorem raise (h : s.Agree t) (c : CmdFault) (w : Word) : (s.raise c w).Agree (t.raise c w) where
  __ := h
  err := rfl
  ecode := rfl
  einfo := rfl
  done := rfl
  ov := rfl
  obuf hov := by cases hov

theorem accept (h : s.Agree t) (w : Word) : (s.accept w).Agree (t.accept w) where
  __ := h
  cur _ := rfl
  busy := rfl
  done := rfl

/-- `CUR` means nothing once the command is complete (10_state.md R31). -/
theorem finish (h : s.Agree t) : s.finish.Agree t.finish where
  __ := h
  busy := rfl
  done := rfl
  cur hb := by cases hb

theorem resetBlock (h : s.Agree t) : s.resetBlock.Agree t.resetBlock := by
  rw [State.resetBlock, State.resetBlock, h.sched, h.answers]
  constructor <;> intros <;> rfl

theorem writeCtrl (h : s.Agree t) (v : Word) : (s.writeCtrl v).Agree (t.writeCtrl v) := by
  cases h31 : v.getLsbD 31 with
  | true =>
    rw [State.writeCtrl_of_srst h31, State.writeCtrl_of_srst h31]
    exact h.resetBlock
  | false =>
    rw [State.writeCtrl_of_not_srst h31, State.writeCtrl_of_not_srst h31]
    exact { h with
      ie := rfl
      done := by rw [h.done]
      err := by rw [h.err, h.busy]
      ecode := by rw [h.busy, h.ecode] }

theorem storeByte (h : s.Agree t) (a : Nat) (b : Byte) : (s.storeByte a b).Agree (t.storeByte a b) := by
  unfold State.storeByte
  split
  · exact { h with
      kbv := congrArg (·.setIfInBounds a true) h.kbv
      kbuf := setIfInBounds_agree h.kbuf a b }
  · exact { h with
      ubv := congrArg (·.setIfInBounds (a - 0x20) true) h.ubv
      ubuf := setIfInBounds_agree h.ubuf (a - 0x20) b }

theorem storeBytes (h : s.Agree t) (addr : Nat) (v : Word) (n : Nat) :
    (s.storeBytes addr v n).Agree (t.storeBytes addr v n) := by
  induction n with
  | zero => exact h
  | succ n ih => exact ih.storeByte _ _

/-! ## The effects of the commands, on valid operands -/

theorem effFmul (h : s.Agree t) (rd : Reg) {ra rb : Reg} (ha : s.fv[ra] = true) (hb : s.fv[rb] = true) :
    (effFmul rd ra rb s).Agree (effFmul rd ra rb t) :=
  h.setReg rd (congrArg₂ (fmul Config.curve) (h.reg ha) (h.reg hb))

theorem effFinv (h : s.Agree t) (rd : Reg) {ra : Reg} (ha : s.fv[ra] = true) :
    (effFinv rd ra s).Agree (effFinv rd ra t) :=
  h.setReg rd (congrArg (finv Config.curve) (h.reg ha))

theorem effDeck (h : s.Agree t) (hk : s.KLoaded) : (effDeck s).Agree (effDeck t) :=
  h.setK (congrArg decodeScalar (h.kbuf_eq hk))

theorem effDecu (h : s.Agree t) (rd : Reg) (hu : s.ULoaded) : (effDecu rd s).Agree (effDecu rd t) :=
  h.setReg rd (congrArg (decodeU Config.curve) (h.ubuf_eq hu))

theorem effEnc (h : s.Agree t) {ra : Reg} (ha : s.fv[ra] = true) : (effEnc ra s).Agree (effEnc ra t) :=
  h.setObuf (congrArg encodeBytes (h.reg ha))

theorem effLinit (h : s.Agree t) {ra : Reg} (ha : s.fv[ra] = true) : (effLinit ra s).Agree (effLinit ra t) :=
  ((h.setR01 (by rw [h.reg ha])).setReg BU (h.reg ha)).setLcnt rfl

theorem effLstep (h : s.Agree t) (hr : ∀ r ∈ (needs .lstep).regs, s.fv[r] = true) (hk : s.kv = true) :
    (effLstep s).Agree (effLstep t) := by
  have h0 : s.r0 = t.r0 := h.point (hr R0X (by decide)) (hr R0Z (by decide))
  have h1 : s.r1 = t.r1 := h.point (hr R1X (by decide)) (hr R1Z (by decide))
  have hu : s.reg BU = t.reg BU := h.reg (hr BU (by decide))
  have hb : s.currentBit = t.currentBit := h.currentBit hk
  exact ((h.setR01 (by rw [h0, h1, hu, hb])).setPoint TX TZ (by rw [h0, h1, hu])).setLcnt (by rw [h.lcnt])

/-- An iteration clears no valid bit, so the next one finds its operands valid again. -/
theorem repeatLstep (h : s.Agree t) (hr : ∀ r ∈ (needs .lstep).regs, s.fv[r] = true) (hk : s.kv = true) (n : Nat) :
    (repeatLstep n s).Agree (repeatLstep n t) := by
  induction n with
  | zero => rwa [repeatLstep_zero, repeatLstep_zero]
  | succ n ih =>
    have hext := (State.Extends.refl s).repeatLstep n
    rw [repeatLstep_succ', repeatLstep_succ']
    exact ih.effLstep (fun r hmem => hext.fv r (hr r hmem)) (hext.kv hk)

theorem effLadder (h : s.Agree t) {ra : Reg} (ha : s.fv[ra] = true) (hk : s.kv = true) :
    (effLadder ra s).Agree (effLadder ra t) := by
  rw [effLadder_eq, effLadder_eq]
  exact (h.effLinit ha).repeatLstep (effLinit_fv ra s) hk 255

/-- The six effects of X25519: the buffers are full, and what each later one reads an earlier one has written. -/
theorem effX25519 (h : s.Agree t) (hk : s.KLoaded) (hu : s.ULoaded) : (effX25519 s).Agree (effX25519 t) := by
  rw [effX25519_eq, effX25519_eq]
  have hdecode := (h.effDeck hk).effDecu BU hu
  have hladder := hdecode.effLadder (State.fv_setReg_self _ BU _) rfl
  have hvalid := effLadder_fv BU (Machine.effDecu BU (Machine.effDeck s))
  have hinverse := hladder.effFinv RES (hvalid R0Z (by decide))
  have hproduct := hinverse.effFmul RES (State.fv_setReg_of_fv (hvalid R0X (by decide)) RES _)
    (State.fv_setReg_self _ RES _)
  exact hproduct.effEnc (State.fv_setReg_self _ RES _)

/-- The effect of a command that finds what it needs. -/
theorem effectOf (h : s.Agree t) {i : Instr} (hm : s.Meets (needs i)) : (effectOf i s).Agree (effectOf i t) := by
  cases i with
  | fadd rd ra rb =>
    exact h.setReg rd (congrArg₂ (fadd Config.curve) (h.reg (hm.regs ra (by simp [needs])))
      (h.reg (hm.regs rb (by simp [needs]))))
  | fsub rd ra rb =>
    exact h.setReg rd (congrArg₂ (fsub Config.curve) (h.reg (hm.regs ra (by simp [needs])))
      (h.reg (hm.regs rb (by simp [needs]))))
  | fmul rd ra rb => exact h.effFmul rd (hm.regs ra (by simp [needs])) (hm.regs rb (by simp [needs]))
  | fpow rd ra =>
    exact h.setReg rd (congrArg₂ (fpow Config.curve) (h.reg (hm.regs ra (by simp [needs])))
      (congrArg BitVec.toNat (h.k (hm.k rfl))))
  | finv rd ra => exact h.effFinv rd (hm.regs ra (by simp [needs]))
  | decle => exact h.setK (congrArg le (h.kbuf_eq (hm.kbuf rfl)))
  | deck => exact h.effDeck (hm.kbuf rfl)
  | decu rd => exact h.effDecu rd (hm.ubuf rfl)
  | enc ra => exact h.effEnc (hm.regs ra (by simp [needs]))
  | ladd =>
    have h0 : s.r0 = t.r0 := h.point (hm.regs R0X (by decide)) (hm.regs R0Z (by decide))
    have h1 : s.r1 = t.r1 := h.point (hm.regs R1X (by decide)) (hm.regs R1Z (by decide))
    have hu : s.reg BU = t.reg BU := h.reg (hm.regs BU (by decide))
    exact h.setPoint TX TZ (by rw [h0, h1, hu])
  | lswap =>
    have h0 : s.r0 = t.r0 := h.point (hm.regs R0X (by decide)) (hm.regs R0Z (by decide))
    have h1 : s.r1 = t.r1 := h.point (hm.regs R1X (by decide)) (hm.regs R1Z (by decide))
    exact h.setR01 (by rw [h0, h1, h.currentBit (hm.k rfl)])
  | ldbl =>
    have h0 : s.r0 = t.r0 := h.point (hm.regs R0X (by decide)) (hm.regs R0Z (by decide))
    have ht : s.t = t.t := h.point (hm.regs TX (by decide)) (hm.regs TZ (by decide))
    exact h.setR01 (by rw [h0, ht])
  | linit ra => exact h.effLinit (hm.regs ra (by simp [needs]))
  | lstep => exact h.effLstep hm.regs (hm.k rfl)
  | ladder ra => exact h.effLadder (hm.regs ra (by simp [needs])) (hm.k rfl)
  | x25519 => exact h.effX25519 (hm.kbuf rfl) (hm.ubuf rfl)

end State.Agree

/-! ## Steps that agree -/

/-- Where the first answers a next state, so does the second, and the two agree. -/
def ResultsAgree (r r' : Result) : Prop := ∀ t, r = .next t → ∃ t', r' = .next t' ∧ t.Agree t'

namespace State.Agree

variable {s t : State}

theorem next (h : s.Agree t) : ResultsAgree (.next s) (.next t) := by
  intro u hu
  cases hu
  exact ⟨t, rfl, h⟩

theorem issue (h : s.Agree t) (i : Instr) : (issue i s).Agree (issue i t) := by
  unfold Machine.issue
  rw [← h.check_eq i]
  cases check i s with
  | none => exact h.accept _
  | some c => exact h.raise c _

theorem writeCmd (h : s.Agree t) (hb : s.busy = false) (w : Word) : ResultsAgree (writeCmd w s) (writeCmd w t) := by
  unfold Machine.writeCmd
  cases decode w with
  | error r => exact (h.raise .illegalCommand w).next
  | ok i =>
    simp only [exec_of_not_busy hb, exec_of_not_busy (h.busy ▸ hb)]
    exact (h.issue i).next

theorem memWrite (h : s.Agree t) (addr n : Nat) (v : Word) : ResultsAgree (memWrite addr n v s) (memWrite addr n v t) := by
  have hrefused := (h.answer (r := .error) rfl).next
  unfold Machine.memWrite
  rw [← h.busy, ← h.err]
  split
  · exact hrefused
  split
  · exact ((h.writeCtrl v).answer rfl).next
  split
  · exact hrefused
  next hbusy =>
    split
    · exact ((h.storeBytes addr v n).answer rfl).next
    split
    · split
      · exact hrefused
      · exact (h.answer rfl).writeCmd (by simpa using hbusy) v
    · exact hrefused

/-- `Complete` performs a command whose operands were checked and are still valid (10_state.md R31). -/
theorem sequencer (h : s.Agree t) (hinv : s.Inv) : ResultsAgree (sequencer s) (sequencer t) := by
  cases hb : s.busy with
  | false =>
    rw [sequencer_of_not_busy hb, sequencer_of_not_busy (h.busy ▸ hb)]
    exact h.next
  | true =>
    obtain ⟨i, hi, hc⟩ := hinv.latched hb
    rw [sequencer_of_latched hb hi, sequencer_of_latched (h.busy ▸ hb) (h.cur hb ▸ hi)]
    exact (h.effectOf (State.meets_of_check hc)).finish.next

theorem perform (h : s.Agree t) (hinv : s.Inv) (e : Event) : ResultsAgree (perform e s) (perform e t) := by
  cases e with
  | read addr n => exact (h.answer (h.memRead_eq addr n)).next
  | write addr n v => exact h.memWrite addr n v
  | resetLine => exact h.resetBlock.next
  | complete => exact h.sequencer hinv

end State.Agree

/-- Settles O58, event by event: both states take the same branch, and what they compute with is valid. -/
theorem invalidDataUnobservable : Obligations.InvalidDataUnobservable := by
  unfold Obligations.InvalidDataUnobservable
  intro s s' t hinv h hstep
  rcases step_cases s with ⟨hnil, hseq⟩ | ⟨e, rest, hcons, hperf⟩ <;>
  rcases step_cases s' with ⟨hnil', hseq'⟩ | ⟨e', rest', hcons', hperf'⟩
  · rw [hseq']
    exact h.sequencer hinv t (hseq ▸ hstep)
  · simp [← h.sched, hnil] at hcons'
  · simp [← h.sched, hcons] at hnil'
  · obtain ⟨rfl, rfl⟩ : e = e' ∧ rest = rest' := by simpa [← h.sched, hcons] using hcons'
    rw [hperf']
    exact (h.setSched rest).perform (hinv.setHost rest s.answers) e t (hperf ▸ hstep)

end Sys2Proof.Machine

/-! PROOF. The registers the host reads and writes, and what stays as it is (spec 10_state.md R23 to R45): each from the rule
of the one event its statement speaks of. -/

namespace Sys2Proof.Machine

/-! ## Reset -/

/-- The control state of 10_state.md R44 is what reset puts. -/
theorem State.afterReset_reset : State.reset.AfterReset := by
  constructor <;> intros <;> simp [State.reset]

/-- `AfterReset` does not speak of the host's side of the port. -/
theorem State.AfterReset.setHost {s : State} (h : s.AfterReset) (sched : List Event) (answers : List Response) :
    ({ s with sched := sched, answers := answers } : State).AfterReset :=
  ⟨h.busy, h.done, h.err, h.ecode, h.ie, h.einfo, h.lcnt, h.ov, h.kv, h.fv, h.kbv, h.ubv⟩

theorem State.afterReset_resetBlock (s : State) : s.resetBlock.AfterReset :=
  State.afterReset_reset.setHost s.sched s.answers

/-- A `CTRL` write with `SRST` is one step to the reset state (10_state.md R36). -/
theorem step_of_srst {s : State} {v : Word} {rest : List Event} (h : s.sched = .write 0x68 4 v :: rest)
    (hv : v.getLsbD 31 = true) : step s = .next ({ s with sched := rest }.resetBlock.answer .okay) := by
  rw [step_of_ctrlWrite h, State.writeCtrl_of_srst hv]

/-- Settles O1: power-on, the reset line and `SRST` all leave the one reset state. -/
theorem resetPutsControlState : Obligations.ResetPutsControlState := by
  unfold Obligations.ResetPutsControlState
  refine ⟨⟨State.afterReset_reset, rfl⟩, ?_, ?_⟩
  · intro s rest hs
    exact ⟨_, step_of_resetLine hs, State.afterReset_resetBlock _, rfl, rfl, rfl⟩
  · intro s rest v hs hv
    exact ⟨_, step_of_srst hs hv, (State.afterReset_resetBlock _).setHost _ _, rfl, rfl, rfl⟩

/-! ## The control words -/

/-- The `STATUS` word bit by bit: eight flags, `LCNT`, the fault code, zeros (10_state.md R35). -/
theorem State.statusWord_getLsbD (s : State) (n : Nat) :
    s.statusWord.getLsbD n =
      if n < 8 then [s.busy, s.done, s.err, s.ov, s.kv, s.kbFull, s.ubFull, false].getD n false
      else if n < 16 then s.lcnt.getLsbD (n - 8)
      else if n < 20 then (faultCode s.ecode).getLsbD (n - 16)
      else false := by
  simp only [State.statusWord, BitVec.getLsbD_append]
  by_cases h8 : n < 8
  · interval_cases n <;> simp
  have hflags : ∀ k < 8, ¬ n - k < 1 := by omega
  have h0 : ¬ n < 1 := by omega
  simp only [h0, h8, hflags, if_false, Nat.sub_sub, Nat.reduceAdd, Nat.reduceLT, BitVec.getLsbD_zero,
    Bool.if_false_right]
  by_cases h16 : n < 16
  · simp [h16, show n - 8 < 8 by omega]
  by_cases h20 : n < 20
  · simp [h16, h20, show ¬ n - 8 < 8 by omega, show n - 16 < 4 by omega]
  · simp [h16, h20, show ¬ n - 8 < 8 by omega, show ¬ n - 16 < 4 by omega]

theorem State.AfterReset.statusWord {s : State} (h : s.AfterReset) : s.statusWord = 0#32 := by
  have hk : s.kbFull = false := by
    rw [Bool.eq_false_iff, ne_eq, s.kbFull_iff]
    exact fun hall => by cases (h.kbv 0).symm.trans (hall 0)
  have hu : s.ubFull = false := by
    rw [Bool.eq_false_iff, ne_eq, s.ubFull_iff]
    exact fun hall => by cases (h.ubv 0).symm.trans (hall 0)
  rw [State.statusWord, h.ecode, h.lcnt, hu, hk, h.kv, h.ov, h.err, h.done, h.busy]
  rfl

/-- Settles O50, field by field of the word that a read of `STATUS` is answered. -/
theorem statusRead : Obligations.StatusRead := by
  unfold Obligations.StatusRead
  intro s rest hs
  refine ⟨s.statusWord, step_of_read hs, s.statusWord_getLsbD 0, s.statusWord_getLsbD 1, s.statusWord_getLsbD 2,
    s.statusWord_getLsbD 3, s.statusWord_getLsbD 4, ?_, ?_, s.statusWord_getLsbD 7, ?_, ?_, ?_,
    State.AfterReset.statusWord⟩
  · rw [s.statusWord_getLsbD 5, ← s.kbFull_iff]
    rfl
  · rw [s.statusWord_getLsbD 6, ← s.ubFull_iff]
    rfl
  · apply BitVec.eq_of_getLsbD_eq
    intro i hi
    rw [BitVec.getLsbD_extractLsb', s.statusWord_getLsbD, if_neg (by omega), if_pos (by omega)]
    simp [hi]
  · have hcode : s.statusWord.extractLsb' 16 4 = faultCode s.ecode := by
      apply BitVec.eq_of_getLsbD_eq
      intro i hi
      rw [BitVec.getLsbD_extractLsb', s.statusWord_getLsbD, if_neg (by omega), if_neg (by omega), if_pos (by omega)]
      simp [hi]
    rw [hcode]
    rcases s.ecode with _ | ⟨_⟩ <;> rfl
  · apply BitVec.eq_of_getLsbD_eq
    intro i hi
    rw [BitVec.getLsbD_extractLsb', s.statusWord_getLsbD, if_neg (by omega), if_neg (by omega), if_neg (by omega)]
    simp

/-- Bit `i` of the `FVALID` word is `FV[i]`, and 0 above the sixteen (10_state.md R37). -/
theorem State.fvalidWord_getLsbD (s : State) {n : Nat} (hn : n < 32) :
    s.fvalidWord.getLsbD n = s.fv.toList.getD n false := by
  rw [State.fvalidWord, BitVec.getLsbD_setWidth, BitVec.getLsbD_ofBoolListLE]
  simp [hn]

theorem State.AfterReset.fvalidWord {s : State} (h : s.AfterReset) : s.fvalidWord = 0#32 := by
  apply BitVec.eq_of_getLsbD_eq
  intro n hn
  rw [s.fvalidWord_getLsbD hn]
  by_cases h16 : n < 16
  · simpa [h16] using h.fv ⟨n, h16⟩
  · simp [h16]

/-- Settles O51, bit by bit for `FVALID`; `EINFO` and `ID` are answered as they stand. -/
theorem controlWordReads : Obligations.ControlWordReads := by
  unfold Obligations.ControlWordReads
  intro s rest
  refine ⟨fun hs => ⟨s.fvalidWord, step_of_read hs, ?_, ?_, State.AfterReset.fvalidWord⟩,
    fun hs => ⟨s.einfo, step_of_read hs, rfl, fun h => h.einfo⟩, fun hs => step_of_read hs⟩
  · intro i
    rw [s.fvalidWord_getLsbD (by omega)]
    simp
  · apply BitVec.eq_of_getLsbD_eq
    intro i hi
    rw [BitVec.getLsbD_extractLsb', s.fvalidWord_getLsbD (by omega)]
    simp

/-- Settles O52: the write by its two cases, the read by the width of `IE`. -/
theorem ctrlRegister : Obligations.CtrlRegister := by
  unfold Obligations.CtrlRegister
  intro s rest
  refine ⟨?_, ?_, ?_⟩
  · intro v hs hv
    have hdone : (s.done && !v.getLsbD 1) = if v.getLsbD 1 then false else s.done := by cases v.getLsbD 1 <;> simp
    rw [step_of_ctrlWrite hs, State.writeCtrl_of_not_srst hv, hdone]
    by_cases hclear : v.getLsbD 2 = true ∧ s.busy = false
    · simp only [hclear.1, hclear.2, State.answer]
      simp
    · have hkeep : (s.busy || !v.getLsbD 2) = true := by
        cases hb : s.busy with
        | true => rfl
        | false => simpa [hb] using hclear
      simp only [if_neg hclear, hkeep, Bool.and_true, if_true, State.answer]
  · intro v hs hv
    exact ⟨_, step_of_srst hs hv, (State.afterReset_resetBlock _).setHost _ _, rfl, rfl⟩
  · intro hs
    refine ⟨s.ctrlWord, step_of_read hs, ?_, ?_⟩
    · simp [State.ctrlWord]
    · cases h : s.ie <;> simp [State.ctrlWord, h]

/-! ## Refused accesses -/

/-- Settles O45: no line of the two procedures but the last answers at these addresses. -/
theorem unmappedAccessRefused : Obligations.UnmappedAccessRefused := by
  unfold Obligations.UnmappedAccessRefused
  intro s rest addr n v haddr
  constructor
  · intro hs
    rw [step_of_write hs]
    rcases memWrite_cases addr n v { s with sched := rest } with herr | ⟨h1, h2, -⟩ | ⟨-, h1, -, -⟩ | ⟨-, -, h1, h2, -⟩
    · exact herr
    · omega
    · omega
    · omega
  · intro hs
    rw [step_of_read hs, memRead_of_not_readable (by omega) (by simp; omega)]

/-! ## What a read shows -/

/-- Settles O56: the read procedure looks at none of the four. -/
theorem secretsAreUnreadable : Obligations.SecretsAreUnreadable := by
  unfold Obligations.SecretsAreUnreadable
  intro s s' f k kb ub rest addr n hs' hs
  have hsched : s'.sched = .read addr n :: rest := by rw [hs', ← hs]
  have hread : memRead addr n s' = memRead addr n s := by
    rw [hs']
    exact memRead_congr addr n rfl rfl (fun _ => rfl) rfl rfl rfl rfl
  refine ⟨memRead addr n s, step_of_read hs, ?_⟩
  rw [step_of_read hsched, hread, hs']

/-! ## What a step leaves as it is -/

/-- Settles O15: while busy the write procedure takes a `CTRL` write only, and without `SRST` that leaves `ERR` and `ECODE`. -/
theorem busyBlockIsFrozen : Obligations.BusyBlockIsFrozen := by
  unfold Obligations.BusyBlockIsFrozen
  intro s t e rest hb hs hcomplete hreset hstep
  cases e with
  | read addr n =>
    rw [step_of_read hs] at hstep
    cases hstep
    rfl
  | write addr n v =>
    rw [step_of_write hs] at hstep
    rcases memWrite_cases addr n v { s with sched := rest } with herr | ⟨rfl, rfl, hctrl⟩ | ⟨hidle, -⟩ | ⟨hidle, -⟩
    · rw [herr] at hstep
      cases hstep
      rfl
    · have h31 : v.getLsbD 31 = false := by simpa [Event.isReset] using hreset
      rw [hctrl, State.writeCtrl_of_not_srst h31] at hstep
      cases hstep
      simp [State.answer, hb]
    · cases hb.symm.trans hidle
    · cases hb.symm.trans hidle
  | resetLine => cases hreset
  | complete => exact absurd rfl hcomplete

/-! ## Valid bits -/

/-- No valid bit of `F`, `K`, `KBUF` or `UBUF` that is set in `s` is cleared in `t`. -/
structure State.KeepsValid (s t : State) : Prop where
  fv : ∀ i : Reg, s.fv[i] = true → t.fv[i] = true
  kv : s.kv = true → t.kv = true
  kbv : ∀ j : Fin 32, s.kbv[j] = true → t.kbv[j] = true
  ubv : ∀ j : Fin 32, s.ubv[j] = true → t.ubv[j] = true

namespace State.KeepsValid

variable {s t u : State}

theorem of_eq (hfv : t.fv = s.fv) (hkv : t.kv = s.kv) (hkbv : t.kbv = s.kbv) (hubv : t.ubv = s.ubv) : s.KeepsValid t :=
  ⟨fun _ h => by rwa [hfv], fun h => by rwa [hkv], fun _ h => by rwa [hkbv], fun _ h => by rwa [hubv]⟩

theorem trans (hst : s.KeepsValid t) (htu : t.KeepsValid u) : s.KeepsValid u :=
  ⟨fun i h => htu.fv i (hst.fv i h), fun h => htu.kv (hst.kv h), fun j h => htu.kbv j (hst.kbv j h),
    fun j h => htu.ubv j (hst.ubv j h)⟩

theorem of_extends (h : s.Extends t) : s.KeepsValid t where
  fv := h.fv
  kv := h.kv
  kbv j hj := by rwa [h.frame]
  ubv j hj := by rwa [h.frame]

/-- A stored byte sets one valid bit (20_memory.md R53). -/
theorem storeByte (s : State) (a : Nat) (b : Byte) : s.KeepsValid (s.storeByte a b) := by
  have hset : ∀ (valid : Vector Bool 32) (k : Nat) (j : Fin 32), valid[j] = true →
      (valid.setIfInBounds k true)[j] = true := by
    intro valid k j hj
    simp only [Fin.getElem_fin, Vector.getElem_setIfInBounds] at hj ⊢
    rw [hj, ite_self]
  unfold State.storeByte
  split
  · exact ⟨fun _ h => h, id, hset _ _, fun _ h => h⟩
  · exact ⟨fun _ h => h, id, fun _ h => h, hset _ _⟩

theorem storeBytes (s : State) (addr : Nat) (v : Word) (n : Nat) : s.KeepsValid (s.storeBytes addr v n) := by
  induction n with
  | zero => exact of_eq rfl rfl rfl rfl
  | succ n ih => exact ih.trans (storeByte _ _ _)

/-- Neither move of a command clears one: the effect only sets them, fault entry and acceptance leave them. -/
theorem exec {i : Instr} (hstep : exec i s = .next t) : s.KeepsValid t := by
  rcases exec_cases hstep with ⟨-, rfl⟩ | ⟨-, c, -, rfl⟩ | ⟨-, -, rfl⟩
  · exact (of_extends (effectOf_extends i s)).trans (of_eq rfl rfl rfl rfl)
  · exact of_eq rfl rfl rfl rfl
  · exact of_eq rfl rfl rfl rfl

theorem writeCmd {w : Word} (hstep : writeCmd w s = .next t) : s.KeepsValid t := by
  rcases writeCmd_cases w s with ⟨r, -, hillegal⟩ | ⟨i, -, hexec⟩
  · rw [hillegal] at hstep
    cases hstep
    exact of_eq rfl rfl rfl rfl
  · exact exec (hexec ▸ hstep)

theorem memWrite {addr n : Nat} {v : Word} (hreset : (Event.write addr n v).isReset = false)
    (hstep : memWrite addr n v s = .next t) : s.KeepsValid t := by
  rcases memWrite_cases addr n v s with herr | ⟨rfl, rfl, hctrl⟩ | ⟨-, -, -, hstore⟩ | ⟨-, -, -, -, hcmd⟩
  · rw [herr] at hstep
    cases hstep
    exact of_eq rfl rfl rfl rfl
  · have h31 : v.getLsbD 31 = false := by simpa [Event.isReset] using hreset
    rw [hctrl, State.writeCtrl_of_not_srst h31] at hstep
    cases hstep
    exact of_eq rfl rfl rfl rfl
  · rw [hstore] at hstep
    cases hstep
    exact (storeBytes s addr v n).trans (of_eq rfl rfl rfl rfl)
  · have hanswered : s.KeepsValid (s.answer .okay) := of_eq rfl rfl rfl rfl
    exact hanswered.trans (writeCmd (hcmd ▸ hstep))

theorem sequencer (hstep : sequencer s = .next t) : s.KeepsValid t := by
  rcases sequencer_cases s with ⟨-, hidle⟩ | ⟨-, i, -, hexec⟩ | ⟨-, r, -, hstop⟩
  · rw [hidle] at hstep
    cases hstep
    exact of_eq rfl rfl rfl rfl
  · exact exec (hexec ▸ hstep)
  · rw [hstop] at hstep
    cases hstep

theorem perform {e : Event} (hreset : e.isReset = false) (hstep : perform e s = .next t) : s.KeepsValid t := by
  cases e with
  | read addr n =>
    rw [perform_read] at hstep
    cases hstep
    exact of_eq rfl rfl rfl rfl
  | write addr n v => exact memWrite hreset hstep
  | resetLine => cases hreset
  | complete => exact sequencer hstep

end State.KeepsValid

/-- Settles O54, event by event. -/
theorem validBitsClearedByResetOnly : Obligations.ValidBitsClearedByResetOnly := by
  unfold Obligations.ValidBitsClearedByResetOnly
  intro s t hstep hreset
  have hkeeps : s.KeepsValid t := by
    rcases step_cases s with ⟨-, hseq⟩ | ⟨e, rest, hsched, hperf⟩
    · exact .sequencer (hseq ▸ hstep)
    · have htaken : s.KeepsValid { s with sched := rest } := .of_eq rfl rfl rfl rfl
      exact htaken.trans (.perform (hreset e (by simp [hsched])) (hperf ▸ hstep))
  exact ⟨hkeeps.fv, hkeeps.kv, hkeeps.kbv, hkeeps.ubv⟩

end Sys2Proof.Machine

/-! PROOF. The host port (spec 20_memory.md R50 to R62): what the two procedures answer, line by line, and the bytes a buffer
write stores and a read of `OBUF` returns. -/

namespace Sys2Proof.Machine

/-! ## Line 1: size and alignment -/

theorem legalAccess_iff (addr n : Nat) : legalAccess addr n = true ↔ n ∈ [1, 2, 4] ∧ addr % n = 0 := by
  simp [legalAccess, or_assoc]

theorem legalAccess_eq_false_iff (addr n : Nat) : legalAccess addr n = false ↔ n ∉ [1, 2, 4] ∨ addr % n ≠ 0 := by
  rw [← Bool.not_eq_true, legalAccess_iff, not_and_or]

theorem memWrite_of_not_legal {addr n : Nat} (h : legalAccess addr n = false) (v : Word) (s : State) :
    memWrite addr n v s = .next (s.answer .error) := by
  simp [memWrite, h]

theorem memRead_of_not_legal {addr n : Nat} (h : legalAccess addr n = false) (s : State) :
    memRead addr n s = .error := by
  simp [memRead, h]

/-- Settles O44: both procedures refuse such a transaction before they look at the state. -/
theorem misalignedAccessRefused : Obligations.MisalignedAccessRefused := by
  unfold Obligations.MisalignedAccessRefused
  intro s rest addr n v hbad
  have hl := (legalAccess_eq_false_iff addr n).mpr hbad
  constructor
  · intro hs
    exact (step_of_write hs).trans (memWrite_of_not_legal hl v _)
  · intro hs
    rw [step_of_read hs, memRead_of_not_legal hl]

/-! ## Refused accesses -/

/-- While `BUSY = 1` or `OV = 0` no read of `OBUF` is answered with data (20_memory.md R55). -/
theorem memRead_of_hidden_output {addr : Nat} (hlo : 0x40 ≤ addr) (hhi : addr < 0x60) (n : Nat) {s : State}
    (h : s.busy = true ∨ s.ov = false) : memRead addr n s = .error := by
  have hhidden : (s.busy || !s.ov) = true := by simpa using h
  simp [memRead, hlo, hhi, hhidden]

/-- Settles O46: no line of the write procedure takes these addresses, and no line of the read procedure those. -/
theorem wrongDirectionRefused : Obligations.WrongDirectionRefused := by
  unfold Obligations.WrongDirectionRefused
  intro s rest addr n v
  constructor
  · intro haddr hs
    simp only [List.mem_cons, List.not_mem_nil, or_false] at haddr
    rw [step_of_write hs]
    rcases memWrite_cases addr n v { s with sched := rest } with herr | ⟨h, -⟩ | ⟨-, h, -⟩ | ⟨-, -, h, -⟩
    · exact herr
    · omega
    · omega
    · omega
  · intro haddr hs
    rw [step_of_read hs, memRead_of_not_readable (by omega) (by simp; omega)]

/-- Settles O47: the lines of the write procedure that take a write, but for that of `CTRL`, need `BUSY = 0`; of the read
procedure only the line of `OBUF` does. -/
theorem busyRefusesWrites : Obligations.BusyRefusesWrites := by
  unfold Obligations.BusyRefusesWrites
  intro s rest hb
  refine ⟨?_, ?_, ?_⟩
  · intro addr n v hctrl hs
    rw [step_of_write hs]
    rcases memWrite_cases addr n v { s with sched := rest } with herr | ⟨h1, h2, -⟩ | ⟨hidle, -⟩ | ⟨hidle, -⟩
    · exact herr
    · exact absurd ⟨h1, h2⟩ hctrl
    · cases hb.symm.trans hidle
    · cases hb.symm.trans hidle
  · intro addr n hlo hhi hs
    rw [step_of_read hs, memRead_of_hidden_output hlo hhi n (.inl hb)]
  · intro addr w hword hs
    simp only [List.mem_cons, List.not_mem_nil, or_false, Prod.mk.injEq] at hword
    rcases hword with ⟨rfl, rfl⟩ | ⟨rfl, rfl⟩ | ⟨rfl, rfl⟩ | ⟨rfl, rfl⟩ | ⟨rfl, rfl⟩ <;> exact step_of_read hs

/-! ## The `CMD` write -/

/-- In the IDLE state a `CMD` write reaches the decoder, answered `OKAY` (20_memory.md R61 line 6). -/
theorem memWrite_cmd_of_idle {s : State} (h : s.Idle) (w : Word) :
    memWrite 0x60 4 w s = writeCmd w (s.answer .okay) := by
  obtain ⟨hb, he⟩ := h
  simp [memWrite, legalAccess, hb, he]

theorem writeCmd_of_decode {w : Word} {i : Instr} (h : decode w = .ok i) (s : State) : writeCmd w s = exec i s := by
  simp only [writeCmd, h]

/-- Settles O10: the write reaches the decoder, and the decoded command makes its move. -/
theorem stepRunsWrittenCommand : Obligations.StepRunsWrittenCommand := by
  unfold Obligations.StepRunsWrittenCommand
  intro s rest w i hidle hs hi
  have hidle' : ({ s with sched := rest } : State).Idle := hidle
  rw [step_of_write hs, memWrite_cmd_of_idle hidle', writeCmd_of_decode hi]
  rfl

/-! ## One answer per transaction -/

theorem State.writeCtrl_answers (s : State) (v : Word) : (s.writeCtrl v).answers = s.answers := by
  rcases s.writeCtrl_cases v with ⟨-, hreset⟩ | ⟨-, hflags⟩
  · rw [hreset, State.resetBlock_answers]
  · rw [hflags]

theorem State.storeBytes_answers (s : State) (addr : Nat) (v : Word) (n : Nat) :
    (s.storeBytes addr v n).answers = s.answers := by
  rw [State.storeBytes_eq]

/-- Neither fault entry nor acceptance answers anything. -/
theorem issue_answers (i : Instr) (s : State) : (issue i s).answers = s.answers := by
  rcases issue_cases i s with ⟨c, -, hfault⟩ | ⟨-, haccept⟩
  · rw [hfault, State.raise_answers]
  · rw [haccept, State.accept_answers]

/-- A `CMD` write to a block that is not busy has a next state, whatever the word, and gives no answer of its own. -/
theorem writeCmd_answers {s : State} (hb : s.busy = false) (w : Word) :
    ∃ t, writeCmd w s = .next t ∧ t.answers = s.answers := by
  rcases writeCmd_cases w s with ⟨r, -, hillegal⟩ | ⟨i, -, hexec⟩
  · exact ⟨_, hillegal, rfl⟩
  · exact ⟨_, hexec.trans (exec_of_not_busy hb), issue_answers i s⟩

/-- A write is refused and changes nothing, or is answered `OKAY`, once (20_memory.md R50, R60). -/
theorem memWrite_refused_or_okay (addr n : Nat) (v : Word) (s : State) :
    memWrite addr n v s = .next (s.answer .error) ∨
      ∃ t, memWrite addr n v s = .next t ∧ t.answers = .okay :: s.answers := by
  rcases memWrite_cases addr n v s with herr | ⟨-, -, hctrl⟩ | ⟨-, -, -, hstore⟩ | ⟨hb, -, -, -, hcmd⟩
  · exact .inl herr
  · exact .inr ⟨_, hctrl, by rw [State.answer_answers, State.writeCtrl_answers]⟩
  · exact .inr ⟨_, hstore, by rw [State.answer_answers, State.storeBytes_answers]⟩
  · obtain ⟨t, ht, hanswers⟩ := writeCmd_answers (s := s.answer .okay) hb v
    exact .inr ⟨t, hcmd.trans ht, hanswers⟩

/-- Settles O53: a write is refused or answered `OKAY`; a read is one rule. -/
theorem errorAnswerChangesNothing : Obligations.ErrorAnswerChangesNothing := by
  unfold Obligations.ErrorAnswerChangesNothing
  intro s rest addr n
  refine ⟨?_, step_of_read⟩
  intro v hs
  rw [step_of_write hs]
  rcases memWrite_refused_or_okay addr n v { s with sched := rest } with herr | ⟨t, ht, hanswers⟩
  · exact ⟨_, .error, herr, rfl, .inr rfl, fun _ => rfl⟩
  · exact ⟨t, .okay, ht, hanswers, .inl rfl, nofun⟩

/-! ## What a buffer write stores -/

/-- The byte at an input-buffer address with its valid bit: `KBUF` below 0x20, `UBUF` from 0x20 (20_memory.md R52). -/
def State.inputByte (s : State) (a : Fin 0x40) : Byte × Bool :=
  if h : (a : Nat) < 0x20 then (s.kbuf[(a : Nat)], s.kbv[(a : Nat)])
  else (s.ubuf[(a : Nat) - 0x20], s.ubv[(a : Nat) - 0x20])

theorem State.inputByte_kbuf (s : State) (j : Fin 32) : s.inputByte ⟨j, by omega⟩ = (s.kbuf[j], s.kbv[j]) := by
  simp [State.inputByte]

theorem State.inputByte_ubuf (s : State) (j : Fin 32) : s.inputByte ⟨0x20 + j, by omega⟩ = (s.ubuf[j], s.ubv[j]) := by
  simp [State.inputByte]

/-- A stored byte is found, valid, at its own address, and every other address is as before. -/
theorem State.inputByte_storeByte (s : State) (a : Nat) (b : Byte) (c : Fin 0x40) :
    (s.storeByte a b).inputByte c = if a = c then (b, true) else s.inputByte c := by
  unfold State.storeByte State.inputByte
  by_cases ha : a < 0x20 <;> by_cases hc : (c : Nat) < 0x20
  · by_cases hac : a = c <;> simp [ha, hc, hac]
  · have hac : a ≠ c := by omega
    simp [ha, hc, hac]
  · have hac : a ≠ c := by omega
    simp [ha, hc, hac]
  · have hac : a - 0x20 = c - 0x20 ↔ a = c := by omega
    by_cases h : a = c <;> simp [ha, hc, hac, h]

/-- Byte `i` of the value is found at `addr + i`, and every address outside the access is as before (20_memory.md R53). -/
theorem State.inputByte_storeBytes (s : State) (addr : Nat) (v : Word) (n : Nat) (c : Fin 0x40) :
    (s.storeBytes addr v n).inputByte c =
      if addr ≤ c ∧ (c : Nat) < addr + n then (v.extractLsb' (8 * (c - addr)) 8, true) else s.inputByte c := by
  induction n with
  | zero => rw [if_neg (by omega)]; rfl
  | succ n ih =>
    rw [State.storeBytes, State.inputByte_storeByte, ih]
    by_cases hlast : addr + n = c
    · rw [if_pos hlast, if_pos (by omega), show (c : Nat) - addr = n by omega]
      rfl
    · have hsame : (addr ≤ c ∧ (c : Nat) < addr + (n + 1)) ↔ (addr ≤ c ∧ (c : Nat) < addr + n) := by omega
      rw [if_neg hlast]
      simp only [hsame]

/-- A pair chosen by a condition, component by component. -/
theorem mk_eq_ite_iff {α β : Type} {p : Prop} [Decidable p] {a x y : α} {b z w : β} :
    (a, b) = (if p then (x, z) else (y, w)) ↔ if p then a = x ∧ b = z else a = y ∧ b = w := by
  split <;> exact Prod.mk_inj

/-- A legal write below 0x40 to a block that is not busy stores its bytes (20_memory.md R61, R53). -/
theorem memWrite_input {addr n : Nat} {s : State} (hl : legalAccess addr n = true) (hb : s.busy = false)
    (haddr : addr < 0x40) (v : Word) : memWrite addr n v s = .next ((s.storeBytes addr v n).answer .okay) := by
  have hctrl : ¬ (addr = 0x68 ∧ n = 4) := by omega
  simp [memWrite, hl, hb, haddr, hctrl]

/-- Settles O48: the two buffers are one range of addresses, and outside them a buffer write changes nothing. -/
theorem bufferWriteStoresBytes : Obligations.BufferWriteStoresBytes := by
  unfold Obligations.BufferWriteStoresBytes
  intro s rest addr n v hb hn halign haddr hs
  have hl := (legalAccess_iff addr n).mpr ⟨hn, halign⟩
  have hstep := (step_of_write hs).trans (memWrite_input (s := { s with sched := rest }) hl hb haddr v)
  refine ⟨_, hstep, ?_, ?_, ?_⟩
  · intro j
    have hbyte := State.inputByte_storeBytes { s with sched := rest } addr v n ⟨j, by omega⟩
    rw [State.inputByte_kbuf, State.inputByte_kbuf] at hbyte
    exact mk_eq_ite_iff.mp hbyte
  · intro j
    have hbyte := State.inputByte_storeBytes { s with sched := rest } addr v n ⟨0x20 + j, by omega⟩
    rw [State.inputByte_ubuf, State.inputByte_ubuf] at hbyte
    exact mk_eq_ite_iff.mp hbyte
  · rw [State.storeBytes_eq]
    rfl

/-! ## What a read of `OBUF` returns -/

/-- The first `n` bytes of a list as an integer, byte `i` with weight `2^(8i)`; past its end the list counts as zeros. -/
theorem leBytes_take (l : List Byte) (n : Nat) :
    leBytes (l.take n) = ∑ i ∈ Finset.range n, (l.getD i 0#8).toNat * 2 ^ (8 * i) := by
  induction n generalizing l with
  | zero => simp [leBytes]
  | succ n ih =>
    cases l with
    | nil => simp [leBytes]
    | cons b bs =>
      rw [List.take_succ_cons, leBytes, ih, Finset.sum_range_succ', Finset.mul_sum, add_comm]
      congr 1
      · apply Finset.sum_congr rfl
        intro i _
        rw [List.getD_cons_succ, Nat.mul_succ, pow_add]
        ring
      · simp

/-- At most four bytes fit the word that is read, so it holds their little-endian value (20_memory.md R55). -/
theorem State.loadBytes_toNat (s : State) (j : Nat) {n : Nat} (hn : n ≤ 4) :
    (s.loadBytes j n).toNat = ∑ i ∈ Finset.range n, (s.obuf.toList.getD (j + i) 0#8).toNat * 2 ^ (8 * i) := by
  have hfits : leBytes ((s.obuf.toList.drop j).take n) < 2 ^ 32 := by
    refine (leBytes_lt _).trans_le (Nat.pow_le_pow_right (by decide) ?_)
    have hlen := List.length_take_le n (s.obuf.toList.drop j)
    omega
  rw [State.loadBytes, BitVec.toNat_ofNat, Nat.mod_eq_of_lt hfits, leBytes_take]
  simp [List.getD]

/-- A legal read of `OBUF` in a block that is not busy and whose output is valid (20_memory.md R62, R55). -/
theorem memRead_of_output {addr n : Nat} {s : State} (hl : legalAccess addr n = true) (hlo : 0x40 ≤ addr)
    (hhi : addr < 0x60) (hb : s.busy = false) (hov : s.ov = true) :
    memRead addr n s = .okayRead (s.loadBytes (addr - 0x40) n) := by
  simp [memRead, hl, hlo, hhi, hb, hov]

/-- Settles O49: the line of `OBUF`, by whether the output may be seen. -/
theorem outputRead : Obligations.OutputRead := by
  unfold Obligations.OutputRead
  intro s rest addr n hn halign hlo hhi hs
  constructor
  · intro hhidden
    rw [step_of_read hs, memRead_of_hidden_output hlo hhi n hhidden]
  · intro hb hov
    have hl := (legalAccess_iff addr n).mpr ⟨hn, halign⟩
    have hn4 : n ≤ 4 := by
      simp only [List.mem_cons, List.not_mem_nil, or_false] at hn
      omega
    refine ⟨s.loadBytes (addr - 0x40) n, ?_, s.loadBytes_toNat _ hn4⟩
    rw [step_of_read hs, memRead_of_output hl hlo hhi hb hov]

end Sys2Proof.Machine

/-! PROOF. The encoding (spec 30_encoding.md R80 to R85). The masks and the match words of R81 are words of fields
themselves, so `w & mask = match` is compared field by field: it says that the opcode is the row's and that the fields its
form does not use are zero. -/

namespace Sys2Proof

/-! ## The masks, field by field -/

/-- The mask of fixed bits of a form, as fields: all ones where the form fixes the field (30_encoding.md R81). -/
def Form.maskFields : Form → Fields
  | .r3 => ⟨BitVec.allOnes 8, 0#4, 0#4, 0#4, BitVec.allOnes 12⟩
  | .r2 => ⟨BitVec.allOnes 8, 0#4, 0#4, BitVec.allOnes 4, BitVec.allOnes 12⟩
  | .rd => ⟨BitVec.allOnes 8, 0#4, BitVec.allOnes 4, BitVec.allOnes 4, BitVec.allOnes 12⟩
  | .ra => ⟨BitVec.allOnes 8, BitVec.allOnes 4, 0#4, BitVec.allOnes 4, BitVec.allOnes 12⟩
  | .n => ⟨BitVec.allOnes 8, BitVec.allOnes 4, BitVec.allOnes 4, BitVec.allOnes 4, BitVec.allOnes 12⟩

theorem Form.mask_eq_word (fm : Form) : fm.mask = fm.maskFields.word := by cases fm <;> decide

/-- A match word has the opcode and nothing else (30_encoding.md R81). -/
theorem Opcode.matchWord_eq_word (o : Opcode) : o.matchWord = (Fields.mk o.code 0#4 0#4 0#4 0#12).word := by
  cases o <;> decide

/-- Words are masked field by field. -/
theorem Fields.word_and_word (x y : Fields) :
    x.word &&& y.word = (Fields.mk (x.op &&& y.op) (x.rd &&& y.rd) (x.ra &&& y.ra) (x.rb &&& y.rb)
      (x.zero &&& y.zero)).word := by
  simp only [Fields.word, ← BitVec.and_append]

theorem Fields.word_inj_iff {x y : Fields} : x.word = y.word ↔ x = y := ⟨Fields.word_inj, congrArg Fields.word⟩

/-- The masked bits of a word match a row of the opcode table exactly when its opcode is the row's and the fields the row's
form does not use are zero (30_encoding.md R81). -/
theorem Fields.word_matches_iff (x : Fields) (o : Opcode) :
    x.word &&& o.form.mask = o.matchWord ↔ x.op = o.code ∧ o.form.unusedZero x = true := by
  rw [Form.mask_eq_word, Opcode.matchWord_eq_word, Fields.word_and_word, Fields.word_inj_iff]
  cases o.form <;> simp [Form.maskFields, Form.unusedZero, and_assoc, -BitVec.reduceAllOnes]

/-! ## The words that are commands -/

/-- The fields spell a command exactly when some row of the opcode table has their opcode and leaves unused only fields that
are zero (30_encoding.md R84). -/
theorem Fields.wellFormed_iff (x : Fields) :
    x.wellFormed = true ↔ ∃ o : Opcode, x.op = o.code ∧ o.form.unusedZero x = true := by
  unfold Fields.wellFormed
  constructor
  · intro h
    cases ho : Opcode.ofCode? x.op with
    | none => simp [ho] at h
    | some o => exact ⟨o, (Opcode.code_of_ofCode? ho).symm, by simpa [ho] using h⟩
  · rintro ⟨o, hop, hzero⟩
    simpa [hop, Opcode.ofCode?_code] using hzero

/-- A word that matches the row of an opcode decodes by that row (30_encoding.md R83). -/
theorem decode_of_matches {w : Word} {o : Opcode} (h : w &&& o.form.mask = o.matchWord) : decode w = .ok (assemble o w) := by
  have hfields : (fieldsOf w).word &&& o.form.mask = o.matchWord := by rwa [fieldsOf_word]
  have hop : opField w = o.code := (((fieldsOf w).word_matches_iff o).1 hfields).1
  simp only [decode, hop, Opcode.ofCode?_code, h, if_true]

/-- A word is a command of a row exactly when it matches the row (30_encoding.md R81). -/
theorem decodes_to_opcode_iff (w : Word) (o : Opcode) :
    (∃ i, decode w = .ok i ∧ i.opcode = o) ↔ w &&& o.form.mask = o.matchWord := by
  constructor
  · rintro ⟨i, hi, rfl⟩
    obtain ⟨-, hmatch, -⟩ := decode_ok_cases hi
    exact hmatch
  · intro hmatch
    exact ⟨assemble o w, decode_of_matches hmatch, assemble_opcode o w⟩

/-- The command read from fields is written with the same fields, when those it does not use are zero. -/
theorem fields_assemble {x : Fields} {o : Opcode} (hop : x.op = o.code) (hzero : o.form.unusedZero x = true) :
    (assemble o x.word).fields = x := by
  obtain ⟨op, rd, ra, rb, zero⟩ := x
  cases o <;>
    simp_all [Opcode.form, Form.unusedZero, assemble, Instr.fields, Instr.opcode, rdField_word, raField_word, rbField_word]

/-- A word that decodes is the word of its command (30_encoding.md R83, R84). -/
theorem encode_of_decode {w : Word} {i : Instr} (h : decode w = .ok i) : encode i = w := by
  obtain ⟨-, hmatch, hi⟩ := decode_ok_cases h
  rw [← fieldsOf_word w] at hmatch hi ⊢
  obtain ⟨hop, hzero⟩ := ((fieldsOf w).word_matches_iff i.opcode).1 hmatch
  calc encode i = (assemble i.opcode (fieldsOf w).word).fields.word := by rw [← hi, encode]
    _ = (fieldsOf w).word := by rw [fields_assemble hop hzero]

end Sys2Proof

namespace Sys2Proof.Machine

/-! ## The statements -/

/-- Settles O6: the word's opcode byte finds the command's row, the word matches it, and the row's fields are the operands. -/
theorem decodeOfEncode : Obligations.DecodeOfEncode := by
  unfold Obligations.DecodeOfEncode
  exact decode_encode

/-- Settles O7: the row that matched says that the fields its form does not use are zero, so none is lost in the command. -/
theorem encodeOfDecode : Obligations.EncodeOfDecode := by
  unfold Obligations.EncodeOfDecode
  intro w i h
  exact encode_of_decode h

/-- Settles O8: the match of a row, field by field, is the opcode and the zero fields that well-formedness asks for. -/
theorem wordIsCommandIffMatch : Obligations.WordIsCommandIffMatch := by
  unfold Obligations.WordIsCommandIffMatch
  refine ⟨decodes_to_opcode_iff, fun x => ?_⟩
  calc (∃ i, decode x.word = .ok i)
      ↔ ∃ o : Opcode, ∃ i, decode x.word = .ok i ∧ i.opcode = o := by simp
    _ ↔ ∃ o : Opcode, x.op = o.code ∧ o.form.unusedZero x = true := by
        simp only [decodes_to_opcode_iff, Fields.word_matches_iff]
    _ ↔ x.wellFormed = true := x.wellFormed_iff.symm

/-- Settles O9: nineteen fixed words, decoded by evaluation. -/
theorem specWordsDecode : Obligations.SpecWordsDecode := by
  unfold Obligations.SpecWordsDecode
  decide +kernel

end Sys2Proof.Machine

/-! PROOF. The field arithmetic unit (spec 40_field_arithmetic.md R100 to R108): on reduced operands the residue of a sum or of
a difference is one conditional correction by the prime, and a command that completes by a register write changes nothing else. -/

namespace Sys2Proof.Machine

/-! ## One conditional correction -/

theorem fadd_of_reduced {c : Curve} {a b : Nat} (ha : a < c.p) (hb : b < c.p) :
    fadd c a b = if a + b < c.p then a + b else a + b - c.p := by
  unfold fadd
  split
  case isTrue hlt => exact Nat.mod_eq_of_lt hlt
  case isFalse hge => rw [Nat.mod_eq_sub_mod (by omega), Nat.mod_eq_of_lt (by omega)]

/-- The borrow paid in advance is taken back when there was none (40_field_arithmetic.md R101). -/
theorem fsub_of_reduced {c : Curve} {a b : Nat} (ha : a < c.p) (hb : b < c.p) :
    fsub c a b = if b ≤ a then a - b else a + c.p - b := by
  have hsum : fsub c a b = (a + c.p - b) % c.p := by
    rw [fsub, Nat.mod_eq_of_lt hb, Nat.add_sub_assoc (Nat.le_of_lt hb)]
  rw [hsum]
  split
  case isTrue hle => rw [Nat.mod_eq_sub_mod (by omega), Nat.mod_eq_of_lt (by omega)]; omega
  case isFalse hlt => exact Nat.mod_eq_of_lt (by omega)

/-! ## Completion by a register write -/

/-- A command whose effect is one register write completes with that register, its valid bit, `BUSY` and `DONE` written and
everything else as it was (40_field_arithmetic.md R108). -/
theorem exec_of_busy_setReg {i : Instr} {s : State} {rd : Reg} {v : Nat} (hb : s.busy = true)
    (heff : effectOf i s = s.setReg rd v) :
    exec i s = .next { s with
      f := s.f.set rd (BitVec.ofNat 256 v)
      fv := s.fv.set rd true, busy := false, done := true } := by
  rw [exec_of_busy hb, heff, State.setReg_eq, State.finish]

/-! ## The statements -/

/-- Settles O19: the residue of the sum of reduced operands is the sum corrected once. -/
theorem faddResult : Obligations.FaddResult := by
  unfold Obligations.FaddResult
  intro s rd ra rb hb hra hrb
  have hsum := fadd_of_reduced (c := Config.curve) hra hrb
  exact exec_of_busy_setReg hb (congrArg (s.setReg rd) hsum)

/-- Settles O20: the residue of the difference of reduced operands, the minuend `F[ra]`, is the difference corrected once. -/
theorem fsubResult : Obligations.FsubResult := by
  unfold Obligations.FsubResult
  intro s rd ra rb hb hra hrb
  have hdiff := fsub_of_reduced (c := Config.curve) hra hrb
  exact exec_of_busy_setReg hb (congrArg (s.setReg rd) hdiff)

/-- Settles O21: the unit's product is the residue by definition, so the frame is the whole claim. -/
theorem fmulResult : Obligations.FmulResult := by
  unfold Obligations.FmulResult
  intro s rd ra rb hb
  exact exec_of_busy_setReg (i := .fmul rd ra rb) hb rfl

end Sys2Proof.Machine

/-! PROOF. The inverter (spec 41_inverter.md R120 to R124): the binary method computes the power, the prime of the field is
prime, and so by Fermat's little theorem the power by `P − 2` is the inverse. -/

namespace Sys2Proof.Machine

/-! ## The binary method -/

/-- The loop invariant of the left-to-right method: from `acc`, the `n` low bits of the exponent give
`acc^(2^n) · x^(e mod 2^n)`. -/
theorem fpowLoop_modEq (c : Curve) (x e n acc : Nat) :
    fpowLoop c x e n acc ≡ acc ^ 2 ^ n * x ^ (e % 2 ^ n) [MOD c.p] := by
  induction n generalizing acc with
  | zero => simpa [fpowLoop, Nat.mod_one] using Nat.ModEq.refl acc
  | succ n ih =>
    have hsq : fmul c acc acc ≡ acc ^ 2 [MOD c.p] := by
      rw [fmul, sq]
      exact Nat.mod_modEq _ _
    have hpow : (acc ^ 2) ^ 2 ^ n = acc ^ 2 ^ (n + 1) := by rw [← pow_mul, pow_succ']
    rw [fpowLoop, Nat.mod_pow_succ, ← Nat.toNat_testBit]
    cases e.testBit n with
    | false =>
      have hclear := (ih _).trans ((hsq.pow (2 ^ n)).mul_right (x ^ (e % 2 ^ n)))
      simpa [hpow] using hclear
    | true =>
      have hmul : fmul c (fmul c acc acc) x ≡ acc ^ 2 * x [MOD c.p] := (Nat.mod_modEq _ _).trans (hsq.mul_right x)
      have hset := (ih _).trans ((hmul.pow (2 ^ n)).mul_right (x ^ (e % 2 ^ n)))
      rw [mul_pow, hpow, mul_assoc, ← pow_add] at hset
      simpa [add_comm] using hset

theorem fpowLoop_one_modEq (c : Curve) (x : Nat) {e n : Nat} (he : e < 2 ^ n) :
    fpowLoop c x e n 1 ≡ x ^ e [MOD c.p] := by
  simpa [Nat.mod_eq_of_lt he] using fpowLoop_modEq c x e n 1

/-- The unit computes the power, for every exponent that fits `K` (41_inverter.md R120). -/
theorem fpow_eq_pow_mod {c : Curve} (hp : 1 < c.p) (x : Nat) {e : Nat} (he : e < 2 ^ 256) :
    fpow c x e = x ^ e % c.p :=
  calc fpow c x e = fpow c x e % c.p := (Nat.mod_eq_of_lt (fpow_lt hp x e)).symm
    _ = x ^ e % c.p := fpowLoop_one_modEq c x he

theorem finv_eq_pow_mod {c : Curve} (hp : 1 < c.p) (hfits : c.p < 2 ^ 256) (x : Nat) :
    finv c x = x ^ (c.p - 2) % c.p :=
  fpow_eq_pow_mod hp x (by omega)

/-- Over a prime field the unit inverts every reduced element but 0, by Fermat's little theorem (41_inverter.md R121). -/
theorem mul_finv_mod {c : Curve} (hp : c.p.Prime) (hfits : c.p < 2 ^ 256) {x : Nat} (hpos : 0 < x) (hlt : x < c.p) :
    x * finv c x % c.p = 1 := by
  have htwo := hp.two_le
  have hfermat : x ^ (c.p - 1) % c.p = 1 % c.p :=
    Nat.ModEq.pow_card_sub_one_eq_one hp (Nat.coprime_of_lt_prime hpos.ne' hlt hp).symm
  calc x * finv c x % c.p = x ^ (c.p - 2 + 1) % c.p := by
        rw [finv_eq_pow_mod hp.one_lt hfits, Nat.mul_mod_mod, pow_succ']
    _ = 1 := by rw [show c.p - 2 + 1 = c.p - 1 by omega, hfermat, Nat.mod_eq_of_lt hp.one_lt]

/-! ## The field prime is prime

Pocklington's criterion: when the power by `N − 1` is 1 but for no prime divisor of `N` already the power by `(N − 1)/q`, every
prime divisor of `N` is 1 mod `q`, which leaves no room for one up to the square root of `N`. The powers are evaluated by the
model's own `fpow`. -/

/-- The number 2 witnesses that every prime divisor of `N` is 1 mod the prime `q`. -/
abbrev TwoWitnesses (N q : Nat) : Prop :=
  1 < N ∧ N < 2 ^ 256 ∧ q ∣ N - 1 ∧ fpow ⟨N, 0⟩ 2 (N - 1) = 1 ∧ (fpow ⟨N, 0⟩ 2 ((N - 1) / q) - 1).Coprime N

theorem TwoWitnesses.dvd_pred {N q : Nat} (h : TwoWitnesses N q) (hq : q.Prime) {l : Nat} (hl : l.Prime) (hdvd : l ∣ N) :
    q ∣ l - 1 := by
  obtain ⟨hone, hfits, hqN, hpow, hcop⟩ := h
  have : Fact q.Prime := ⟨hq⟩
  have : Fact l.Prime := ⟨hl⟩
  have hcast : ∀ e < 2 ^ 256, ((fpow ⟨N, 0⟩ 2 e : Nat) : ZMod l) = 2 ^ e := by
    intro e he
    have hmod : fpow ⟨N, 0⟩ 2 e ≡ 2 ^ e [MOD l] := by
      rw [fpow_eq_pow_mod (c := ⟨N, 0⟩) hone 2 he]
      exact (Nat.mod_modEq _ N).of_dvd hdvd
    simpa using (ZMod.natCast_eq_natCast_iff _ _ _).mpr hmod
  have hdiv : (N - 1) / q < 2 ^ 256 := (Nat.div_le_self _ _).trans_lt (by omega)
  have hroot : ((2 : ZMod l) ^ ((N - 1) / q)) ^ q = 1 := by
    rw [← pow_mul, Nat.div_mul_cancel hqN, ← hcast _ (by omega), hpow, Nat.cast_one]
  have hne : (2 : ZMod l) ^ ((N - 1) / q) ≠ 1 := by
    intro heq
    rw [← hcast _ hdiv] at heq
    have hmod : fpow ⟨N, 0⟩ 2 ((N - 1) / q) ≡ 1 [MOD l] :=
      (ZMod.natCast_eq_natCast_iff _ _ _).mp (by simpa using heq)
    have hpred := Nat.dvd_of_mod_eq_zero (Nat.sub_mod_eq_zero_of_mod_eq hmod)
    exact hl.one_lt.ne' (Nat.eq_one_of_dvd_coprimes hcop hpred hdvd)
  rw [← orderOf_eq_prime hroot hne]
  refine ZMod.orderOf_dvd_card_sub_one fun hzero => ?_
  simp [hzero, hq.ne_zero] at hroot

/-- Two witnessed primes whose product exceeds the square root of `N`. -/
theorem prime_of_twoWitnesses {N q r : Nat} (hq : q.Prime) (hr : r.Prime) (hne : q ≠ r) (hwq : TwoWitnesses N q)
    (hwr : TwoWitnesses N r) (hlarge : N < (q * r) ^ 2) : N.Prime := by
  have hN : 1 < N := hwq.1
  have hmin := Nat.minFac_prime hN.ne'
  have hpos := hmin.two_le
  have hdvd : q * r ∣ N.minFac - 1 :=
    ((Nat.coprime_primes hq hr).mpr hne).mul_dvd_of_dvd_of_dvd (hwq.dvd_pred hq hmin N.minFac_dvd)
      (hwr.dvd_pred hr hmin N.minFac_dvd)
  by_contra hcomposite
  have hsmall := Nat.minFac_sq_le_self (by omega) hcomposite
  have hle : q * r ≤ N.minFac := (Nat.le_of_dvd (by omega) hdvd).trans (Nat.sub_le _ _)
  exact absurd (hlarge.trans_le (Nat.pow_le_pow_left hle 2)) (by omega)

theorem prime_1919519569386763 : Nat.Prime 1919519569386763 :=
  prime_of_twoWitnesses (q := 127) (r := 8574133) (by norm_num) (by norm_num) (by decide) (by decide +kernel)
    (by decide +kernel) (by decide)

theorem prime_75445702479781427272750846543864801 : Nat.Prime 75445702479781427272750846543864801 :=
  prime_of_twoWitnesses (q := 75707) (by norm_num) prime_1919519569386763 (by decide) (by decide +kernel)
    (by decide +kernel) (by decide)

/-- The large prime factor of `P − 1`. -/
theorem prime_factor_of_P_pred :
    Nat.Prime 74058212732561358302231226437062788676166966415465897661863160754340907 :=
  prime_of_twoWitnesses (q := 353) (by norm_num) prime_75445702479781427272750846543864801 (by decide)
    (by decide +kernel) (by decide +kernel) (by decide)

theorem Config_P_prime : Config.P.Prime :=
  prime_of_twoWitnesses (q := 65147) (by norm_num) prime_factor_of_P_pred (by decide) (by decide +kernel)
    (by decide +kernel) (by decide)

/-! ## The statements -/

/-- Settles O22: the loop over the 256 bits of `K` computes the power. -/
theorem fpowResult : Obligations.FpowResult := by
  unfold Obligations.FpowResult
  intro s rd ra hb
  have hpow := fpow_eq_pow_mod curve_one_lt_p (s.reg ra) s.k.isLt
  exact exec_of_busy_setReg hb (congrArg (s.setReg rd) hpow)

/-- Settles O23: the power by `P − 2`, and its value at 0. -/
theorem finvResult : Obligations.FinvResult := by
  unfold Obligations.FinvResult
  rintro s rd ra e hb rfl
  have hinv := finv_eq_pow_mod curve_one_lt_p Config_P_lt (s.reg ra)
  refine ⟨exec_of_busy_setReg hb (congrArg (s.setReg rd) hinv), fun hzero => ?_⟩
  have hinv_zero : finv Config.curve (s.reg ra) = 0 := (congrArg (finv Config.curve) hzero).trans finv_zero
  exact exec_of_busy_setReg hb (congrArg (s.setReg rd) hinv_zero)

/-- Settles O24: `P` is prime, and the register holds the inverse whole. -/
theorem finvInverts : Obligations.FinvInverts := by
  unfold Obligations.FinvInverts
  intro s rd ra hb hpos hlt
  refine ⟨_, exec_of_busy hb, ?_⟩
  have hheld : (effFinv rd ra s).reg rd = finv Config.curve (s.reg ra) :=
    State.reg_setReg_self s rd _ ((finv_lt curve_one_lt_p _).trans Config_P_lt)
  calc s.reg ra * (effFinv rd ra s).reg rd % Config.P
      = s.reg ra * finv Config.curve (s.reg ra) % Config.P := by rw [hheld]
    _ = 1 := mul_finv_mod (c := Config.curve) Config_P_prime Config_P_lt hpos hlt

/-- Settles O25: FINV is FPOW by the number `P − 2`, which fits `K`. -/
theorem fpowByPMinusTwoIsFinv : Obligations.FpowByPMinusTwoIsFinv := by
  unfold Obligations.FpowByPMinusTwoIsFinv
  intro s rd ra hb hk
  have hexponent : s.k.toNat = Config.curve.p - 2 := by
    rw [hk, BitVec.toNat_ofNat]
    exact Nat.mod_eq_of_lt (by decide)
  have heffect : effectOf (.fpow rd ra) s = effectOf (.finv rd ra) s := by
    rw [effectOf, effectOf, effFpow, hexponent, effFinv, finv]
  rw [exec_of_busy hb, heffect, exec_of_busy hb]

end Sys2Proof.Machine

/-! PROOF. The codec (spec 42_codec.md R130 to R138): the little-endian integer of a buffer as a sum and bit by bit, the bits of
a clamped integer, and byte order both ways. -/

namespace Sys2Proof.Machine

/-! ## The integer of a buffer -/

/-- Byte `j` has weight `2^(8j)` (42_codec.md R130). -/
theorem le_eq_sum (b : Buffer) : le b = ∑ j : Fin 32, (b[j]).toNat * 2 ^ (8 * (j : Nat)) := by
  have htake : b.toList.take 32 = b.toList := List.take_of_length_le (by simp)
  rw [le, ← htake, leBytes_take, Finset.sum_range]
  simp [List.getD]

theorem byteOf_getLsbD (x j : Nat) {c : Nat} (hc : c < 8) : (byteOf x j).getLsbD c = x.testBit (8 * j + c) := by
  rw [byteOf, BitVec.getLsbD_ofNat, decide_eq_true hc, Bool.true_and, Nat.testBit_shiftRight]

/-! ## Clamping -/

/-- The low 254 bits without the lowest three are a multiple of 8, which leaves bit 254 to the summand `2^254`. -/
theorem clamp_eq (n : Nat) : clamp n = 2 ^ 254 * 1 + 2 ^ 3 * (n / 2 ^ 3 % 2 ^ 251) := by
  unfold clamp
  omega

/-- Bits 0 to 2 and all from 255 on are clear, bit 254 is set, the others are kept (42_codec.md R131). -/
theorem clamp_testBit (n i : Nat) :
    (clamp n).testBit i = if i < 3 ∨ 255 ≤ i then false else if i = 254 then true else n.testBit i := by
  by_cases htop : 255 ≤ i
  · rw [if_pos (.inr htop)]
    exact Nat.testBit_lt_two_pow ((clamp_lt n).trans_le (Nat.pow_le_pow_right (by decide) htop))
  have hlow : 2 ^ 3 * (n / 2 ^ 3 % 2 ^ 251) < 2 ^ 254 := by omega
  rw [clamp_eq, Nat.testBit_two_pow_mul_add _ hlow]
  by_cases h254 : i = 254
  · simp [h254]
  rw [if_pos (by omega), if_neg h254, Nat.testBit_two_pow_mul, Nat.testBit_mod_two_pow, Nat.testBit_div_two_pow]
  by_cases h3 : i < 3
  · simp [h3]
  · simp [h3, htop, show 3 ≤ i by omega, show i - 3 < 251 by omega]

/-! ## Byte order both ways -/

/-- Nothing of an integer that fits 32 bytes is lost in them (42_codec.md R134). -/
theorem le_encodeBytes {x : Nat} (hx : x < 2 ^ 256) : le (encodeBytes x) = x := by
  apply Nat.eq_of_testBit_eq
  intro i
  by_cases hi : i < 256
  · have hbit := le_testBit (encodeBytes x) ⟨i / 8, by omega⟩ ⟨i % 8, by omega⟩
    rw [Fin.getElem_fin, encodeBytes_getElem, byteOf_getLsbD _ _ (Nat.mod_lt i (by decide))] at hbit
    simpa only [Nat.div_add_mod] using hbit
  · have hpow : 2 ^ 256 ≤ 2 ^ i := Nat.pow_le_pow_right (by decide) (by omega)
    rw [Nat.testBit_lt_two_pow ((le_lt _).trans_le hpow), Nat.testBit_lt_two_pow (hx.trans_le hpow)]

/-- The bytes of a buffer's integer are the buffer's. -/
theorem encodeBytes_le (b : Buffer) : encodeBytes (le b) = b := by
  apply Vector.ext
  intro j hj
  rw [encodeBytes_getElem]
  apply BitVec.eq_of_getLsbD_eq
  intro c hc
  rw [byteOf_getLsbD _ _ hc]
  exact le_testBit b ⟨j, hj⟩ ⟨c, hc⟩

/-- Neither the mask nor the reduction changes a canonical input (42_codec.md R133). -/
theorem decodeU_of_canonical {b : Buffer} (h : le b < Config.P) : decodeU Config.curve b = le b := by
  rw [decodeU, Nat.mod_eq_of_lt (h.trans Config_P_lt_255)]
  exact Nat.mod_eq_of_lt h

/-! ## Completion by a write of `K` -/

/-- A command whose effect is one write of `K` completes with `K`, `KV`, `BUSY` and `DONE` written and everything else as it was
(42_codec.md R135, R136). -/
theorem exec_of_busy_setK {i : Instr} {s : State} {v : Nat} (hb : s.busy = true) (heff : effectOf i s = s.setK v) :
    exec i s = .next { s with k := BitVec.ofNat 256 v, kv := true, busy := false, done := true } := by
  rw [exec_of_busy hb, heff, State.setK, State.finish]

/-! ## The statements -/

/-- Settles O26: the recursion over the bytes is the weighted sum. -/
theorem decleResult : Obligations.DecleResult := by
  unfold Obligations.DecleResult
  intro s hb
  exact exec_of_busy_setK hb (congrArg s.setK (le_eq_sum s.kbuf))

/-- Settles O27: the bits of the clamped integer, each of them a bit of a byte of `KBUF`. -/
theorem deckResult : Obligations.DeckResult := by
  unfold Obligations.DeckResult
  intro s hb
  refine ⟨BitVec.ofNat 256 (clamp (le s.kbuf)), exec_of_busy_setK hb rfl, fun j b => ?_⟩
  have hfits : 8 * (j : Nat) + b < 256 := by omega
  have htop : 255 ≤ 8 * (j : Nat) + b ↔ 8 * (j : Nat) + b = 255 := by omega
  rw [BitVec.getLsbD_ofNat, decide_eq_true hfits, Bool.true_and, clamp_testBit, le_testBit]
  simp only [htop]

/-- Settles O28: the integer the unit masks and reduces is the weighted sum of the bytes. -/
theorem decuResult : Obligations.DecuResult := by
  unfold Obligations.DecuResult
  intro s rd hb
  have hdecode : decodeU Config.curve s.ubuf =
      (∑ j : Fin 32, (s.ubuf[j]).toNat * 2 ^ (8 * (j : Nat))) % 2 ^ 255 % Config.P :=
    congrArg (· % 2 ^ 255 % Config.P) (le_eq_sum s.ubuf)
  exact exec_of_busy_setReg hb (congrArg (s.setReg rd) hdecode)

/-- Settles O29: byte `j` of the encoding is the register shifted right by `8j`, cut to eight bits. -/
theorem encResult : Obligations.EncResult := by
  unfold Obligations.EncResult
  intro s ra hb
  refine ⟨encodeBytes (s.reg ra), exec_of_busy hb, fun j => ?_⟩
  calc (encodeBytes (s.reg ra))[j] = byteOf (s.reg ra) j := encodeBytes_getElem _ _ j.isLt
    _ = (s.f[ra]).extractLsb' (8 * j) 8 := rfl

/-- Settles O30: byte order loses nothing either way, and no canonical input is masked or reduced. -/
theorem codecRoundTrip : Obligations.CodecRoundTrip := by
  unfold Obligations.CodecRoundTrip
  constructor
  · intro x hx
    have hbytes : le (encodeBytes x) = x := le_encodeBytes (hx.trans Config_P_lt)
    rw [decodeU_of_canonical (hbytes.trans_lt hx), hbytes]
  · intro b hb
    rw [decodeU_of_canonical hb, encodeBytes_le]

end Sys2Proof.Machine

/-! PROOF. The pure functions of the ladder (spec 43_ladder.md R150 to R155): the formulas over the integers mod P, and the swap
and the iteration by the two values of the scalar bit. -/

namespace Sys2Proof.Machine

/-! ## The formulas over the integers mod P -/

section

variable {a b : Nat} {x y : ℤ}

/-- A computed sum stands for the sum of what its operands stand for. -/
theorem fadd_modEq_of (ha : a ≡ x [ZMOD Config.P]) (hb : b ≡ y [ZMOD Config.P]) :
    fadd Config.curve a b ≡ x + y [ZMOD Config.P] :=
  (fadd_modEq a b).trans (ha.add hb)

theorem fsub_modEq_of (ha : a ≡ x [ZMOD Config.P]) (hb : b ≡ y [ZMOD Config.P]) :
    fsub Config.curve a b ≡ x - y [ZMOD Config.P] :=
  (fsub_modEq a b).trans (ha.sub hb)

theorem fmul_modEq_of (ha : a ≡ x [ZMOD Config.P]) (hb : b ≡ y [ZMOD Config.P]) :
    fmul Config.curve a b ≡ x * y [ZMOD Config.P] :=
  (fmul_modEq a b).trans (ha.mul hb)

end

/-- Differential addition, multiplied out (43_ladder.md R153). -/
theorem xAdd_modEq (p q : Point) (u : Nat) :
    (xAdd Config.curve p q u).x ≡ ((q.x - q.z) * (p.x + p.z) + (q.x + q.z) * (p.x - p.z)) ^ 2 [ZMOD Config.P] ∧
      (xAdd Config.curve p q u).z ≡
        u * ((q.x - q.z) * (p.x + p.z) - (q.x + q.z) * (p.x - p.z)) ^ 2 [ZMOD Config.P] := by
  have hda := fmul_modEq_of (fsub_modEq q.x q.z) (fadd_modEq p.x p.z)
  have hcb := fmul_modEq_of (fadd_modEq q.x q.z) (fsub_modEq p.x p.z)
  have hsum := fadd_modEq_of hda hcb
  have hdiff := fsub_modEq_of hda hcb
  rw [sq, sq]
  exact ⟨fmul_modEq_of hsum hsum, fmul_modEq_of rfl (fmul_modEq_of hdiff hdiff)⟩

/-- Doubling, multiplied out: the difference of the two squares is `4XZ` (43_ladder.md R152). -/
theorem xDbl_modEq (p : Point) :
    (xDbl Config.curve p).x ≡ (p.x + p.z) ^ 2 * (p.x - p.z) ^ 2 [ZMOD Config.P] ∧
      (xDbl Config.curve p).z ≡ 4 * p.x * p.z * ((p.x - p.z) ^ 2 + 121666 * (4 * p.x * p.z)) [ZMOD Config.P] := by
  have haa := fmul_modEq_of (fadd_modEq p.x p.z) (fadd_modEq p.x p.z)
  have hbb := fmul_modEq_of (fsub_modEq p.x p.z) (fsub_modEq p.x p.z)
  have he := fsub_modEq_of haa hbb
  rw [← sq, ← sq, show ((p.x : ℤ) + p.z) ^ 2 - (p.x - p.z) ^ 2 = 4 * p.x * p.z by ring] at he
  rw [← sq] at haa hbb
  have ha24 : (Config.curve.a24 : ℤ) ≡ 121666 [ZMOD Config.P] := rfl
  exact ⟨fmul_modEq_of haa hbb, fmul_modEq_of he (fadd_modEq_of hbb (fmul_modEq_of ha24 he))⟩

/-! ## By the scalar bit -/

section

variable {c : Curve} (h : 1 < c.p) {p q : Point} (u : Nat)
include h

/-- The first point of a swap with the bit 0, whatever the second point is. -/
theorem cswap_zero_fst (hp : p.Reduced c) (q : Point) : (cswap c p q 0).1 = p := by
  simp [cswap, sel_zero h, Nat.mod_eq_of_lt hp.1, Nat.mod_eq_of_lt hp.2]

/-- The first point of a swap with the bit 1 is the second, whatever the first was. -/
theorem cswap_one_fst (p : Point) (hq : q.Reduced c) : (cswap c p q 1).1 = q := by
  simp [cswap, sel_one h, Nat.mod_eq_of_lt hq.1, Nat.mod_eq_of_lt hq.2]

/-- The iteration with the bit 0 doubles `r0` (43_ladder.md R154). -/
theorem ladderStep_zero (hp : p.Reduced c) (q : Point) : ladderStep c p q u 0 = (xDbl c p, xAdd c p q u) := by
  have hpos : 0 < c.p := by omega
  rw [ladderStep, cswap_zero_fst h hp, cswap_zero h _ _ (xDbl_reduced hpos p) (xAdd_reduced hpos p q u)]

/-- The iteration with the bit 1 doubles `r1`, which ends as the new `r1` (43_ladder.md R154). -/
theorem ladderStep_one (p : Point) (hq : q.Reduced c) : ladderStep c p q u 1 = (xAdd c p q u, xDbl c q) := by
  have hpos : 0 < c.p := by omega
  rw [ladderStep, cswap_one_fst h p hq, cswap_one h _ _ (xDbl_reduced hpos q) (xAdd_reduced hpos p q u)]

end

/-- Infinity doubled is infinity. -/
theorem xDbl_infinity : xDbl Config.curve ⟨1, 0⟩ = ⟨1, 0⟩ := by decide

/-- Iterations with the bit 0 leave `r0` at infinity, whatever `r1` is (43_ladder.md R168). -/
theorem ladderLoop_infinity {k n : Nat} (hk : k % 2 ^ n = 0) (u : Nat) (q : Point) :
    (ladderLoop Config.curve k u n (⟨1, 0⟩, q)).1 = ⟨1, 0⟩ := by
  have hreduced : (⟨1, 0⟩ : Point).Reduced Config.curve := ⟨curve_one_lt_p, curve_p_pos⟩
  induction n generalizing q with
  | zero => rw [ladderLoop_zero]
  | succ n ih =>
    rw [Nat.mod_pow_succ, Nat.add_eq_zero_iff] at hk
    obtain ⟨hlow, htop⟩ := hk
    have hbit : scalarBit k n = 0 := by
      rw [scalarBit, Nat.toNat_testBit]
      simpa using htop
    rw [ladderLoop_succ, hbit, ladderStep_zero curve_one_lt_p u hreduced, xDbl_infinity]
    exact ih hlow _

end Sys2Proof.Machine

/-! PROOF. The commands of the ladder unit (spec 43_ladder.md R160 to R168): each single command by the function it computes,
LSTEP as four commands, and LADDER as LINIT and 255 iterations, followed through the pure ladder. -/

namespace Sys2Proof.Machine

/-! ## The current bit -/

theorem State.currentBit_eq (s : State) : s.currentBit = (s.k.getLsbD (s.lcnt.toNat - 1)).toNat := rfl

/-- The swap by the current bit of two reduced points (43_ladder.md R161). -/
theorem State.cswap_currentBit {s : State} (h0 : s.r0.Reduced Config.curve) (h1 : s.r1.Reduced Config.curve) :
    cswap Config.curve s.r0 s.r1 s.currentBit =
      if s.k.getLsbD (s.lcnt.toNat - 1) then (s.r1, s.r0) else (s.r0, s.r1) := by
  rw [State.currentBit_eq]
  cases s.k.getLsbD (s.lcnt.toNat - 1) with
  | false => exact cswap_zero curve_one_lt_p _ _ h0 h1
  | true => exact cswap_one curve_one_lt_p _ _ h0 h1

/-- The iteration by the current bit on two reduced points (43_ladder.md R154). -/
theorem State.ladderStep_currentBit {s : State} (h0 : s.r0.Reduced Config.curve) (h1 : s.r1.Reduced Config.curve)
    (u : Nat) :
    ladderStep Config.curve s.r0 s.r1 u s.currentBit =
      if s.k.getLsbD (s.lcnt.toNat - 1) then (xAdd Config.curve s.r0 s.r1 u, xDbl Config.curve s.r1)
      else (xDbl Config.curve s.r0, xAdd Config.curve s.r0 s.r1 u) := by
  rw [State.currentBit_eq]
  cases s.k.getLsbD (s.lcnt.toNat - 1) with
  | false => exact ladderStep_zero curve_one_lt_p u h0 _
  | true => exact ladderStep_one curve_one_lt_p u _ h1

/-! ## One command after another -/

/-- A command that does not look at `BUSY` and `DONE`, taken up right after another has completed. -/
theorem exec_after_finish {i : Instr} {s : State}
    (hflags : effectOf i { s with busy := true, done := true } = { effectOf i s with busy := true, done := true }) :
    exec i { s.finish with busy := true } = .next (effectOf i s).finish := by
  have hstart : { s.finish with busy := true } = { s with busy := true, done := true } := rfl
  rw [hstart, exec_of_busy rfl, hflags]
  rfl

/-- LSWAP of two reduced points just written writes them anew, swapped. -/
theorem effLswap_setR01 (s : State) {r : Point × Point} (h0 : r.1.Reduced Config.curve) (h1 : r.2.Reduced Config.curve) :
    effLswap (s.setR01 r) = s.setR01 (cswap Config.curve r.1 r.2 s.currentBit) := by
  obtain ⟨hr0, hr1, -, -⟩ := State.setR01_reads s r h0 h1
  have hbit : (s.setR01 r).currentBit = s.currentBit := rfl
  rw [effLswap, hr0, hr1, hbit, State.setR01_setR01]

/-- LDBL of two reduced points just written writes them anew, the first doubled and the second the old `t`. -/
theorem effLdbl_setR01 (s : State) {r : Point × Point} (h0 : r.1.Reduced Config.curve) (h1 : r.2.Reduced Config.curve) :
    effLdbl (s.setR01 r) = s.setR01 (xDbl Config.curve r.1, s.t) := by
  obtain ⟨hr0, -, ht, -⟩ := State.setR01_reads s r h0 h1
  rw [effLdbl, hr0, ht, State.setR01_setR01]

/-- The effect of LSTEP is those of LADD, LSWAP, LDBL, LSWAP and the decrement (43_ladder.md R164): LADD leaves `t` where LDBL
finds it, each of the other three writes `r0` and `r1` anew, and none of the four touches `K`, `LCNT` or `BU`. -/
theorem effLstep_eq_four (s : State) :
    effLstep s = { effLswap (effLdbl (effLswap (effLadd s))) with lcnt := s.lcnt - 1#8 } := by
  have ht := xAdd_reduced curve_p_pos s.r0 s.r1 (s.reg BU)
  obtain ⟨hladd_t, hladd_r0, hladd_r1, -⟩ : (effLadd s).t = _ ∧ (effLadd s).r0 = _ ∧ (effLadd s).r1 = _ ∧ _ :=
    State.setT_reads s _ ht
  have hbit : (effLadd s).currentBit = s.currentBit := rfl
  have hswapped := cswap_reduced curve_p_pos s.r0 s.r1 s.currentBit
  have hdbl := xDbl_reduced curve_p_pos (cswap Config.curve s.r0 s.r1 s.currentBit).1
  have hlswap : effLswap (effLadd s) = (effLadd s).setR01 (cswap Config.curve s.r0 s.r1 s.currentBit) := by
    rw [effLswap, hladd_r0, hladd_r1, hbit]
  have hlast : effLswap (effLdbl (effLswap (effLadd s))) =
      (effLadd s).setR01 (ladderStep Config.curve s.r0 s.r1 (s.reg BU) s.currentBit) := by
    rw [hlswap, effLdbl_setR01 _ hswapped.1 hswapped.2, hladd_t, effLswap_setR01 _ hdbl ht, hbit, ladderStep]
  rw [hlast, effLadd, State.setT_setR01, effLstep]

/-! ## LINIT and the iterations -/

/-- LINIT leaves the start of the ladder in its registers; nothing is reduced (43_ladder.md R163). -/
theorem effLinit_reads (ra : Reg) (s : State) :
    (effLinit ra s).r0 = ⟨1, 0⟩ ∧ (effLinit ra s).r1 = ⟨s.reg ra, 1⟩ ∧ (effLinit ra s).reg BU = s.reg ra := by
  simp [effLinit, State.r0, State.r1, State.point, State.reg, State.setR01_f, R0X, R0Z, R1X, R1Z, BU]

/-- Iterations change `F`, `FV` and `LCNT` only. -/
theorem repeatLstep_frame (n : Nat) (s : State) :
    repeatLstep n s =
      { s with f := (repeatLstep n s).f, fv := (repeatLstep n s).fv, lcnt := (repeatLstep n s).lcnt } := by
  induction n with
  | zero => rw [repeatLstep_zero]
  | succ n ih =>
    rw [repeatLstep_succ']
    generalize repeatLstep n s = t at ih ⊢
    rw [ih]
    rfl

/-- `n` iterations from `LCNT = n + m` are those of the pure ladder for the bits `n + m − 1` down to `m` of `K`, which are the
bits `n − 1` down to 0 of `K / 2^m` (43_ladder.md R155, R164). -/
theorem repeatLstep_reads {n m : Nat} {s : State} (hlcnt : s.lcnt.toNat = n + m) :
    ((repeatLstep n s).r0, (repeatLstep n s).r1) =
        ladderLoop Config.curve (s.k.toNat / 2 ^ m) (s.reg BU) n (s.r0, s.r1) ∧
      (repeatLstep n s).reg BU = s.reg BU ∧ (repeatLstep n s).lcnt.toNat = m := by
  induction n generalizing s with
  | zero =>
    rw [repeatLstep_zero, ladderLoop_zero]
    exact ⟨rfl, rfl, by omega⟩
  | succ n ih =>
    obtain ⟨hpoints, hbu, hk, hcount⟩ := effLstep_reads s
    have hrest : (effLstep s).lcnt.toNat = n + m := by
      rw [hcount]
      bv_omega
    have hbit : s.currentBit = scalarBit (s.k.toNat / 2 ^ m) n := by
      rw [State.currentBit, hlcnt, scalarBit, scalarBit, Nat.testBit_div_two_pow]
      congr 2
      omega
    obtain ⟨ihpoints, ihbu, ihcount⟩ := ih hrest
    rw [repeatLstep_succ, ladderLoop_succ, ihpoints, hpoints, hbu, hk, hbit]
    exact ⟨rfl, ihbu.trans hbu, ihcount⟩

/-- `n` iterations right after LINIT leave what `n` iterations of the pure ladder from its start leave. -/
theorem repeatLstep_effLinit_reads (ra : Reg) (s : State) {n m : Nat} (h : 255 = n + m) :
    ((repeatLstep n (effLinit ra s)).r0, (repeatLstep n (effLinit ra s)).r1) =
        ladderLoop Config.curve (s.k.toNat / 2 ^ m) (s.reg ra) n (⟨1, 0⟩, ⟨s.reg ra, 1⟩) ∧
      (repeatLstep n (effLinit ra s)).reg BU = s.reg ra ∧ (repeatLstep n (effLinit ra s)).lcnt.toNat = m := by
  obtain ⟨hr0, hr1, hbu⟩ := effLinit_reads ra s
  have hreads := repeatLstep_reads (s := effLinit ra s) h
  rw [hr0, hr1, hbu] at hreads
  exact hreads

/-- LADDER changes `F`, `FV` and `LCNT` only, and leaves `LCNT = 0` (43_ladder.md R165). -/
theorem effLadder_frame (ra : Reg) (s : State) :
    effLadder ra s = { s with f := (effLadder ra s).f, fv := (effLadder ra s).fv, lcnt := 0#8 } := by
  rw [effLadder_eq]
  have hframe := repeatLstep_frame 255 (effLinit ra s)
  obtain ⟨-, -, hcount⟩ := repeatLstep_effLinit_reads ra s (n := 255) (m := 0) rfl
  generalize repeatLstep 255 (effLinit ra s) = t at hframe hcount ⊢
  rw [BitVec.eq_of_toNat_eq (y := 0#8) hcount] at hframe
  exact hframe

/-- LADDER leaves the result and the final `r1` of the pure ladder (43_ladder.md R165). -/
theorem effLadder_reads (ra : Reg) (s : State) :
    ((effLadder ra s).r0, (effLadder ra s).r1) =
        ladderLoop Config.curve s.k.toNat (s.reg ra) 255 (⟨1, 0⟩, ⟨s.reg ra, 1⟩) ∧
      (effLadder ra s).reg BU = s.reg ra := by
  obtain ⟨hpoints, hbu, -⟩ := repeatLstep_effLinit_reads ra s (n := 255) (m := 0) rfl
  rw [pow_zero, Nat.div_one] at hpoints
  rw [effLadder_eq]
  exact ⟨hpoints, hbu⟩

/-- The last of its iterations, which leaves `t`, is for bit 0 of `K` and starts where the 254 before it end. -/
theorem effLadder_t (ra : Reg) (s : State) {q : Point × Point}
    (hq : q = ladderLoop Config.curve (s.k.toNat / 2) (s.reg ra) 254 (⟨1, 0⟩, ⟨s.reg ra, 1⟩)) :
    (effLadder ra s).t = xAdd Config.curve q.1 q.2 (s.reg ra) := by
  obtain ⟨hpoints, hbu, -⟩ := repeatLstep_effLinit_reads ra s (n := 254) (m := 1) rfl
  rw [pow_one] at hpoints
  rw [effLadder_eq, repeatLstep_succ', effLstep_t, hbu, hq, ← hpoints]

/-- An iteration sets the valid bits of `t`. -/
theorem effLstep_fv_t (s : State) : (effLstep s).fv[TX] = true ∧ (effLstep s).fv[TZ] = true := by
  simp [effLstep, State.setPoint]

/-- LADDER leaves its registers valid: those an iteration reads stay so, and the last iteration writes `t`. -/
theorem effLadder_fv_ladderRegs (ra : Reg) (s : State) : ∀ r : Reg, 8 ≤ r → r < 15 → (effLadder ra s).fv[r] = true := by
  have hwhich : ∀ r : Reg, 8 ≤ r → r < 15 → r ∈ (needs .lstep).regs ∨ r = TX ∨ r = TZ := by decide
  intro r hlo hhi
  rcases hwhich r hlo hhi with hread | rfl | rfl
  · exact effLadder_fv ra s r hread
  · rw [effLadder_eq, repeatLstep_succ']
    exact (effLstep_fv_t _).1
  · rw [effLadder_eq, repeatLstep_succ']
    exact (effLstep_fv_t _).2

end Sys2Proof.Machine

/-! PROOF. Who writes what (spec 43_ladder.md R166, 10_state.md R22, R25, R28): the registers an effect writes are the command's
destinations, and no step but a completion or a reset changes `F`, `K`, `OBUF` or `LCNT`. -/

namespace Sys2Proof.Machine

/-! ## The registers an effect writes -/

/-- `t` holds what `s` holds, valid bits included, in every register outside `rs`. -/
structure State.WritesOnly (rs : List Reg) (s t : State) : Prop where
  f : ∀ r ∉ rs, t.f[r] = s.f[r]
  fv : ∀ r ∉ rs, t.fv[r] = s.fv[r]

namespace State.WritesOnly

variable {rs : List Reg} {s t : State}

theorem of_eq (hf : t.f = s.f) (hfv : t.fv = s.fv) : WritesOnly rs s t :=
  ⟨fun _ _ => by rw [hf], fun _ _ => by rw [hfv]⟩

theorem setReg (h : WritesOnly rs s t) {i : Reg} (hi : i ∈ rs) (v : Nat) : WritesOnly rs s (t.setReg i v) where
  f r hr := by
    have hne : i ≠ r := fun e => hr (e ▸ hi)
    rw [← h.f r hr]
    exact BitVec.eq_of_toNat_eq (State.reg_setReg_ne t i r v hne)
  fv r hr := by
    have hne : i ≠ r := fun e => hr (e ▸ hi)
    rw [State.fv_setReg, if_neg hne, h.fv r hr]

theorem setPoint (h : WritesOnly rs s t) {x z : Reg} (hx : x ∈ rs) (hz : z ∈ rs) (p : Point) :
    WritesOnly rs s (t.setPoint x z p) :=
  (h.setReg hx p.x).setReg hz p.z

theorem setR01 (h : WritesOnly rs s t) (hrs : [R0X, R0Z, R1X, R1Z] ⊆ rs) (r : Point × Point) :
    WritesOnly rs s (t.setR01 r) := by
  simp only [List.cons_subset] at hrs
  obtain ⟨h0x, h0z, h1x, h1z, -⟩ := hrs
  exact (h.setPoint h0x h0z r.1).setPoint h1x h1z r.2

theorem setK (h : WritesOnly rs s t) (v : Nat) : WritesOnly rs s (t.setK v) := ⟨h.f, h.fv⟩

theorem setObuf (h : WritesOnly rs s t) (b : Buffer) : WritesOnly rs s (t.setObuf b) := ⟨h.f, h.fv⟩

theorem setLcnt (h : WritesOnly rs s t) (v : BitVec 8) : WritesOnly rs s { t with lcnt := v } := ⟨h.f, h.fv⟩

theorem effLinit (h : WritesOnly rs s t) (hrs : [R0X, R0Z, R1X, R1Z] ⊆ rs) (hbu : BU ∈ rs) (ra : Reg) :
    WritesOnly rs s (effLinit ra t) :=
  ((h.setR01 hrs _).setReg hbu _).setLcnt _

theorem effLstep (h : WritesOnly rs s t) (hrs : [R0X, R0Z, R1X, R1Z] ⊆ rs) (htx : TX ∈ rs) (htz : TZ ∈ rs) :
    WritesOnly rs s (effLstep t) :=
  ((h.setR01 hrs _).setPoint htx htz _).setLcnt _

theorem repeatLstep (h : WritesOnly rs s t) (hrs : [R0X, R0Z, R1X, R1Z] ⊆ rs) (htx : TX ∈ rs) (htz : TZ ∈ rs) (n : Nat) :
    WritesOnly rs s (repeatLstep n t) := by
  induction n with
  | zero => rwa [repeatLstep_zero]
  | succ n ih =>
    rw [repeatLstep_succ']
    exact ih.effLstep hrs htx htz

theorem effLadder (h : WritesOnly rs s t) {ra : Reg} (hrs : destinations (.ladder ra) ⊆ rs) :
    WritesOnly rs s (effLadder ra t) := by
  simp only [destinations, List.cons_subset] at hrs
  obtain ⟨h0x, h0z, h1x, h1z, hbu, htx, htz, -⟩ := hrs
  have hr01 : [R0X, R0Z, R1X, R1Z] ⊆ rs := by simp [h0x, h0z, h1x, h1z]
  rw [effLadder_eq]
  exact (h.effLinit hr01 hbu ra).repeatLstep hr01 htx htz 255

theorem effX25519 (h : WritesOnly (destinations .x25519) s t) : WritesOnly (destinations .x25519) s (effX25519 t) := by
  have hres : RES ∈ destinations .x25519 := by decide
  rw [effX25519_eq]
  exact (((((h.setK _).setReg (by decide) _).effLadder (by decide)).setReg hres _).setReg hres _).setObuf _

end State.WritesOnly

/-- A command writes its destinations only (10_state.md R22, last column). -/
theorem effectOf_writesOnly (i : Instr) (s : State) : State.WritesOnly (destinations i) s (effectOf i s) := by
  have h {rs : List Reg} : State.WritesOnly rs s s := .of_eq rfl rfl
  cases i with
  | fadd rd _ _ => exact h.setReg (List.mem_singleton_self rd) _
  | fsub rd _ _ => exact h.setReg (List.mem_singleton_self rd) _
  | fmul rd _ _ => exact h.setReg (List.mem_singleton_self rd) _
  | fpow rd _ => exact h.setReg (List.mem_singleton_self rd) _
  | finv rd _ => exact h.setReg (List.mem_singleton_self rd) _
  | decle => exact .of_eq rfl rfl
  | deck => exact .of_eq rfl rfl
  | decu rd => exact h.setReg (List.mem_singleton_self rd) _
  | enc _ => exact .of_eq rfl rfl
  | ladd => exact h.setPoint (by decide) (by decide) _
  | lswap => exact h.setR01 (by decide) _
  | ldbl => exact h.setR01 (by decide) _
  | linit ra => exact h.effLinit (by simp [destinations]) (by simp [destinations]) ra
  | lstep => exact h.effLstep (by decide) (by decide) (by decide)
  | ladder ra => exact h.effLadder (List.Subset.refl _)
  | x25519 => exact h.effX25519

/-! ## `K`, `OBUF` and `LCNT` -/

/-- A command that is none of the three writers of `K` leaves it (10_state.md R25). -/
theorem effectOf_k {i : Instr} (h : i.opcode ∉ [.decle, .deck, .x25519]) (s : State) : (effectOf i s).k = s.k := by
  cases i with
  | decle => exact absurd (by simp [Instr.opcode]) h
  | deck => exact absurd (by simp [Instr.opcode]) h
  | x25519 => exact absurd (by simp [Instr.opcode]) h
  | ladder ra => rw [effectOf, effLadder_frame]
  | _ => rfl

/-- A command that is neither of the two writers of `OBUF` leaves it (10_state.md R28). -/
theorem effectOf_obuf {i : Instr} (h : i.opcode ∉ [.enc, .x25519]) (s : State) : (effectOf i s).obuf = s.obuf := by
  cases i with
  | enc _ => exact absurd (by simp [Instr.opcode]) h
  | x25519 => exact absurd (by simp [Instr.opcode]) h
  | ladder ra => rw [effectOf, effLadder_frame]
  | _ => rfl

/-- A command that is none of the four writers of `LCNT` leaves it (43_ladder.md R166). -/
theorem effectOf_lcnt {i : Instr} (h : i.opcode ∉ [.lstep, .linit, .ladder, .x25519]) (s : State) :
    (effectOf i s).lcnt = s.lcnt := by
  cases i with
  | lstep => exact absurd (by simp [Instr.opcode]) h
  | linit _ => exact absurd (by simp [Instr.opcode]) h
  | ladder _ => exact absurd (by simp [Instr.opcode]) h
  | x25519 => exact absurd (by simp [Instr.opcode]) h
  | _ => rfl

/-! ## Every other event leaves them -/

/-- `F`, `K`, `OBUF` and `LCNT` hold the same in both states. -/
structure State.SameResults (s t : State) : Prop where
  f : t.f = s.f
  k : t.k = s.k
  obuf : t.obuf = s.obuf
  lcnt : t.lcnt = s.lcnt

namespace State.SameResults

variable {s t : State}

/-- Neither fault entry nor acceptance touches them. -/
theorem writeCmd {w : Word} (hb : s.busy = false) (hstep : writeCmd w s = .next t) : s.SameResults t := by
  rcases writeCmd_cases w s with ⟨r, -, hillegal⟩ | ⟨i, -, hexec⟩
  · rw [hillegal] at hstep
    cases hstep
    exact ⟨rfl, rfl, rfl, rfl⟩
  · rcases exec_cases (hexec ▸ hstep) with ⟨hbusy, -⟩ | ⟨-, c, -, rfl⟩ | ⟨-, -, rfl⟩
    · cases hb.symm.trans hbusy
    · exact ⟨rfl, rfl, rfl, rfl⟩
    · exact ⟨rfl, rfl, rfl, rfl⟩

theorem memWrite {addr n : Nat} {v : Word} (hreset : (Event.write addr n v).isReset = false)
    (hstep : memWrite addr n v s = .next t) : s.SameResults t := by
  rcases memWrite_cases addr n v s with herr | ⟨rfl, rfl, hctrl⟩ | ⟨-, -, -, hstore⟩ | ⟨hb, -, -, -, hcmd⟩
  · rw [herr] at hstep
    cases hstep
    exact ⟨rfl, rfl, rfl, rfl⟩
  · have h31 : v.getLsbD 31 = false := by simpa [Event.isReset] using hreset
    rw [hctrl, State.writeCtrl_of_not_srst h31] at hstep
    cases hstep
    exact ⟨rfl, rfl, rfl, rfl⟩
  · rw [hstore, State.storeBytes_eq] at hstep
    cases hstep
    exact ⟨rfl, rfl, rfl, rfl⟩
  · have hsame : (s.answer .okay).SameResults t := writeCmd hb (hcmd ▸ hstep)
    exact ⟨hsame.f, hsame.k, hsame.obuf, hsame.lcnt⟩

end State.SameResults

/-- The move from `s` to `t` is the completion of the command latched in `s`, or leaves all four as they are. -/
def State.CompletesOrKeeps (s t : State) : Prop :=
  (∃ i, s.busy = true ∧ decode s.cur = .ok i ∧ t = (effectOf i s).finish) ∨ s.SameResults t

namespace State.CompletesOrKeeps

variable {s t : State}

theorem sequencer (hstep : sequencer s = .next t) : s.CompletesOrKeeps t := by
  rcases sequencer_cases s with ⟨-, hidle⟩ | ⟨hb, i, hi, hexec⟩ | ⟨-, r, -, hstop⟩
  · rw [hidle] at hstep
    cases hstep
    exact .inr ⟨rfl, rfl, rfl, rfl⟩
  · rw [hexec, exec_of_busy hb] at hstep
    cases hstep
    exact .inl ⟨i, hb, hi, rfl⟩
  · rw [hstop] at hstep
    cases hstep

theorem perform {e : Event} (hreset : e.isReset = false) (hstep : perform e s = .next t) : s.CompletesOrKeeps t := by
  cases e with
  | read addr n =>
    rw [perform_read] at hstep
    cases hstep
    exact .inr ⟨rfl, rfl, rfl, rfl⟩
  | write addr n v => exact .inr (.memWrite hreset hstep)
  | resetLine => cases hreset
  | complete => exact sequencer hstep

end State.CompletesOrKeeps

/-- A step that is no reset, from `s` up to the event taken off the schedule. -/
theorem step_completesOrKeeps {s t : State} (hstep : step s = .next t)
    (hreset : ∀ e ∈ s.sched.head?, e.isReset = false) : ∃ sched, { s with sched := sched }.CompletesOrKeeps t := by
  rcases step_cases s with ⟨-, hseq⟩ | ⟨e, rest, hsched, hperf⟩
  · exact ⟨s.sched, .sequencer (hseq ▸ hstep)⟩
  · exact ⟨rest, .perform (hreset e (by simp [hsched])) (hperf ▸ hstep)⟩

/-- Settles O55: the step completes a command, whose effect writes its own destinations only, or it writes none of them. -/
theorem onlyNamedCommandsWrite : Obligations.OnlyNamedCommandsWrite := by
  unfold Obligations.OnlyNamedCommandsWrite
  intro s t hstep hreset
  obtain ⟨sched, ⟨i, hb, hi, rfl⟩ | hsame⟩ := step_completesOrKeeps hstep hreset
  · refine ⟨fun r hr => ⟨i, hb, hi, ?_⟩, fun hk => ⟨i, hb, hi, ?_⟩, fun hobuf => ⟨i, hb, hi, ?_⟩,
      fun hlcnt => ⟨i, hb, hi, ?_⟩⟩
    · exact not_imp_comm.1 ((effectOf_writesOnly i _).f r) hr
    · exact not_imp_comm.1 (effectOf_k · _) hk
    · exact not_imp_comm.1 (effectOf_obuf · _) hobuf
    · exact not_imp_comm.1 (effectOf_lcnt · _) hlcnt
  · exact ⟨fun r hr => absurd (by rw [hsame.f]) hr, fun hk => absurd hsame.k hk, fun hobuf => absurd hsame.obuf hobuf,
      fun hlcnt => absurd hsame.lcnt hlcnt⟩

end Sys2Proof.Machine

/-! PROOF. The statements about the ladder's commands (spec 43_ladder.md R160 to R168). -/

namespace Sys2Proof.Machine

/-! ## Completion by a write of `r0` and `r1` -/

/-- A command whose effect is one write of `r0` and `r1` completes with those registers, their valid bits, `BUSY` and `DONE`
written and everything else as it was. -/
theorem exec_of_busy_setR01 {i : Instr} {s : State} {r : Point × Point} {v : Vector Elem 16} (hb : s.busy = true)
    (heff : effectOf i s = s.setR01 r) (hf : (s.setR01 r).f = v) :
    exec i s = .next { s with
      f := v
      fv := (((s.fv.set 8 true).set 9 true).set 10 true).set 11 true, busy := false, done := true } := by
  rw [exec_of_busy hb, heff, ← hf]
  rfl

/-- Points written back where they were read leave the registers as they are. -/
theorem State.setR01_self_f (s : State) : (s.setR01 (s.r0, s.r1)).f = s.f := by
  simp [State.setR01_f, State.r0, State.r1, State.point, ofNat_reg, R0X, R0Z, R1X, R1Z]

/-- Each point written where the other was read. -/
theorem State.setR01_exchanged_f (s : State) :
    (s.setR01 (s.r1, s.r0)).f = (((s.f.set 8 s.f[10]).set 9 s.f[11]).set 10 s.f[8]).set 11 s.f[9] := by
  simp [State.setR01_f, State.r0, State.r1, State.point, ofNat_reg, R0X, R0Z, R1X, R1Z]

/-! ## The single commands -/

/-- Settles O31: LADD writes the differential addition to `t` and nothing else. -/
theorem laddResult : Obligations.LaddResult := by
  unfold Obligations.LaddResult
  intro s hb
  have hreduced := xAdd_reduced curve_p_pos s.r0 s.r1 (s.reg BU)
  have hformulas := xAdd_modEq s.r0 s.r1 (s.reg BU)
  exact ⟨_, _, hreduced.1, hreduced.2, exec_of_busy hb, hformulas⟩

/-- Settles O32: LDBL writes the doubled `r0`, and `t` as it is read back. -/
theorem ldblResult : Obligations.LdblResult := by
  unfold Obligations.LdblResult
  intro s hb
  have hreduced := xDbl_reduced curve_p_pos s.r0
  have hformulas := xDbl_modEq s.r0
  have hf : (s.setR01 (xDbl Config.curve s.r0, s.t)).f = _ := State.setR01_f s _
  rw [show BitVec.ofNat 256 s.t.x = s.f[13] from ofNat_reg s TX,
    show BitVec.ofNat 256 s.t.z = s.f[14] from ofNat_reg s TZ] at hf
  exact ⟨_, _, hreduced.1, hreduced.2, exec_of_busy_setR01 hb rfl hf, hformulas⟩

/-- Settles O33: by the bit the swap exchanges the points or keeps them, and a register written with its own value holds it. -/
theorem lswapResult : Obligations.LswapResult := by
  unfold Obligations.LswapResult
  intro s hb _ hreduced
  have h0 : s.r0.Reduced Config.curve := ⟨hreduced R0X (by decide) (by decide), hreduced R0Z (by decide) (by decide)⟩
  have h1 : s.r1.Reduced Config.curve := ⟨hreduced R1X (by decide) (by decide), hreduced R1Z (by decide) (by decide)⟩
  refine exec_of_busy_setR01 hb (congrArg s.setR01 (State.cswap_currentBit h0 h1)) ?_
  split
  · exact State.setR01_exchanged_f s
  · exact State.setR01_self_f s

/-- Settles O34: LINIT writes back the `u` it read. -/
theorem linitResult : Obligations.LinitResult := by
  unfold Obligations.LinitResult
  intro s ra hb
  rw [← ofNat_reg s ra]
  exact exec_of_busy hb

/-- Settles O35: the iteration of reduced points, by the bit. -/
theorem lstepResult : Obligations.LstepResult := by
  unfold Obligations.LstepResult
  intro s hb _ hreduced
  have h0 : s.r0.Reduced Config.curve := ⟨hreduced R0X (by decide) (by decide), hreduced R0Z (by decide) (by decide)⟩
  have h1 : s.r1.Reduced Config.curve := ⟨hreduced R1X (by decide) (by decide), hreduced R1Z (by decide) (by decide)⟩
  exact ⟨_, _, _, rfl, State.ladderStep_currentBit h0 h1 (s.reg BU), exec_of_busy hb⟩

/-! ## Composite commands -/

/-- Settles O36: the four commands complete one after the other, and their effects together are that of LSTEP. -/
theorem lstepIsFourCommands : Obligations.LstepIsFourCommands := by
  unfold Obligations.LstepIsFourCommands
  intro s hb
  refine ⟨_, _, _, _, exec_of_busy hb, exec_after_finish (effLswap_flags _ _ _),
    exec_after_finish (effLdbl_flags _ _ _), exec_after_finish (effLswap_flags _ _ _), ?_⟩
  rw [exec_of_busy hb]
  exact congrArg (fun t : State => Host.Outcome.next t.finish) (effLstep_eq_four s)

/-- Settles O38: the states between are those of the repeated iteration. -/
theorem ladderIsLinitAndLsteps : Obligations.LadderIsLinitAndLsteps := by
  unfold Obligations.LadderIsLinitAndLsteps
  intro s ra hb
  refine ⟨fun n => (repeatLstep n (effLinit ra s)).finish, ?_, fun n _ => ?_, ?_⟩
  · beta_reduce
    rw [repeatLstep_zero]
    exact exec_of_busy hb
  · beta_reduce
    rw [repeatLstep_succ']
    exact exec_after_finish (effLstep_flags _ _ _)
  · beta_reduce
    rw [← effLadder_eq]
    exact exec_ladder_of_busy hb

/-- Settles O37: what LADDER leaves in the ladder's registers is the pure ladder, and the other registers are no destinations. -/
theorem ladderResult : Obligations.LadderResult := by
  unfold Obligations.LadderResult
  intro s ra hb
  have hothers : ∀ r : Reg, r < 8 ∨ r = 15 → r ∉ destinations (.ladder ra) := by
    rw [destinations]
    decide
  have hwrites : State.WritesOnly (destinations (.ladder ra)) s (effLadder ra s) := effectOf_writesOnly (.ladder ra) s
  have hvalid := effLadder_fv_ladderRegs ra s
  have hframe := effLadder_frame ra s
  have hlast := effLadder_t ra s rfl
  obtain ⟨hpoints, hbu⟩ := effLadder_reads ra s
  refine ⟨_, exec_ladder_of_busy hb, ?_⟩
  generalize effLadder ra s = t at *
  obtain ⟨hr0, hr1⟩ := Prod.ext_iff.1 hpoints
  have hu : t.f[12] = s.f[ra] := BitVec.eq_of_toNat_eq hbu
  refine ⟨⟨congrArg Point.x hr0, congrArg Point.z hr0, congrArg Point.x hr1, congrArg Point.z hr1, hu,
    congrArg Point.x hlast, congrArg Point.z hlast⟩,
    fun r hr => ⟨hwrites.f r (hothers r hr), hwrites.fv r (hothers r hr)⟩, hvalid, ?_⟩
  rw [hframe]
  rfl

/-- Settles O39: LADDER leaves the pure ladder's result, which the bits 0 keep at infinity. -/
theorem zeroScalarGivesInfinity : Obligations.ZeroScalarGivesInfinity := by
  unfold Obligations.ZeroScalarGivesInfinity
  intro s ra hb hk
  have hinfinity : (effLadder ra s).r0 = ⟨1, 0⟩ :=
    (congrArg Prod.fst (effLadder_reads ra s).1).trans (ladderLoop_infinity hk _ _)
  refine ⟨_, exec_ladder_of_busy hb, ?_⟩
  generalize effLadder ra s = t at hinfinity ⊢
  exact ⟨BitVec.eq_of_toNat_eq (congrArg Point.x hinfinity), BitVec.eq_of_toNat_eq (congrArg Point.z hinfinity)⟩

end Sys2Proof.Machine

/-! PROOF. X25519 (spec 44_x25519.md R180, R182, R183): what the one command leaves, which of its input bits make no difference,
and its output at infinity. -/

namespace Sys2Proof.Machine

/-! ## The four parts of R180 -/

/-- The affine value of a projective point, which is 0 at infinity (44_x25519.md R180, R183). -/
def affine (p : Point) : Nat := fmul Config.curve p.x (finv Config.curve p.z)

theorem affine_lt (p : Point) : affine p < 2 ^ 256 := (fmul_lt curve_p_pos _ _).trans Config_P_lt

theorem affine_of_z_eq_zero {p : Point} (hz : p.z = 0) : affine p = 0 := by
  rw [affine, hz, finv_zero]
  rfl

/-- DECK and DECU leave the clamped scalar and the decoded u-coordinate, whichever register takes the latter. -/
theorem effDecu_effDeck_reads (a : Reg) (s : State) :
    (effDecu a (effDeck s)).k.toNat = clamp (le s.kbuf) ∧
      (effDecu a (effDeck s)).reg a = decodeU Config.curve s.ubuf := by
  have hscalar : clamp (le s.kbuf) < 2 ^ 256 := (clamp_lt _).trans (by decide)
  refine ⟨?_, State.reg_setReg_self _ a _ ((decodeU_lt curve_p_pos _).trans Config_P_lt)⟩
  calc (effDecu a (effDeck s)).k.toNat = clamp (le s.kbuf) % 2 ^ 256 := rfl
    _ = clamp (le s.kbuf) := Nat.mod_eq_of_lt hscalar

/-- The state after the first three of the six commands: both inputs decoded, then the ladder (44_x25519.md R181). -/
def effDecodeLadder (a : Reg) (s : State) : State := effLadder a (effDecu a (effDeck s))

/-- They leave the ladder of the clamped scalar and the decoded u-coordinate. -/
theorem effDecodeLadder_reads (a : Reg) (s : State) {k u : Nat} (hk : k = clamp (le s.kbuf))
    (hu : u = decodeU Config.curve s.ubuf) :
    ((effDecodeLadder a s).r0, (effDecodeLadder a s).r1) = ladderLoop Config.curve k u 255 (⟨1, 0⟩, ⟨u, 1⟩) ∧
      (effDecodeLadder a s).reg BU = u ∧
      (effDecodeLadder a s).t =
        xAdd Config.curve (ladderLoop Config.curve (k / 2) u 254 (⟨1, 0⟩, ⟨u, 1⟩)).1
          (ladderLoop Config.curve (k / 2) u 254 (⟨1, 0⟩, ⟨u, 1⟩)).2 u := by
  obtain ⟨hscalar, hcoord⟩ := effDecu_effDeck_reads a s
  obtain ⟨hpoints, hbu⟩ := effLadder_reads a (effDecu a (effDeck s))
  have ht := effLadder_t a (effDecu a (effDeck s)) rfl
  rw [hscalar, hcoord, ← hk, ← hu] at hpoints ht
  exact ⟨hpoints, hbu.trans (hcoord.trans hu.symm), ht⟩

/-- Its result `r0` alone. -/
theorem effDecodeLadder_r0 (a : Reg) (s : State) :
    (effDecodeLadder a s).r0 = ladder Config.curve (clamp (le s.kbuf)) (decodeU Config.curve s.ubuf) :=
  congrArg Prod.fst (effDecodeLadder_reads a s rfl rfl).1

theorem effDecodeLadder_frame (a : Reg) (s : State) :
    effDecodeLadder a s = { s with
      f := (effDecodeLadder a s).f, fv := (effDecodeLadder a s).fv
      k := BitVec.ofNat 256 (clamp (le s.kbuf)), kv := true, lcnt := 0#8 } :=
  effLadder_frame a (effDecu a (effDeck s))

/-- The last three commands, with the registers of R180, are two writes of `RES` and one of `OBUF`. -/
theorem effConvert_eq_writes (e : State) :
    effEnc RES (effFmul RES R0X RES (effFinv RES R0Z e)) =
      ((e.setReg RES (finv Config.curve e.r0.z)).setReg RES (affine e.r0)).setObuf (encodeBytes (affine e.r0)) :=
  effConvert_eq e e.r0 rfl rfl

/-- Two writes of `RES` leave the second value there, and the other registers as they were. -/
theorem State.setRes_setObuf_reads (e : State) (i : Nat) {v : Nat} (hv : v < 2 ^ 256) (b : Buffer) :
    (((e.setReg RES i).setReg RES v).setObuf b).reg RES = v ∧
      ∀ r : Reg, r ≠ RES → (((e.setReg RES i).setReg RES v).setObuf b).reg r = e.reg r :=
  ⟨State.reg_setReg_self _ RES v hv,
    fun r hr => (State.reg_setReg_ne _ RES r v hr.symm).trans (State.reg_setReg_ne e RES r i hr.symm)⟩

/-- X25519 is the first three commands and those writes. -/
theorem effX25519_eq_writes (s : State) :
    ∃ i v, v = affine (ladder Config.curve (clamp (le s.kbuf)) (decodeU Config.curve s.ubuf)) ∧
      effX25519 s = (((effDecodeLadder BU s).setReg RES i).setReg RES v).setObuf (encodeBytes v) := by
  rw [effX25519_eq, ← effDecodeLadder, effConvert_eq_writes, effDecodeLadder_r0]
  exact ⟨_, _, rfl, rfl⟩

/-- It leaves the affine value in `RES`, its bytes in `OBUF`, and the ladder's registers as the ladder left them. -/
theorem effX25519_reads (s : State) {v : Nat}
    (hv : v = affine (ladder Config.curve (clamp (le s.kbuf)) (decodeU Config.curve s.ubuf))) :
    (effX25519 s).obuf = encodeBytes v ∧ (effX25519 s).reg RES = v ∧
      ∀ r : Reg, r ≠ RES → (effX25519 s).reg r = (effDecodeLadder BU s).reg r := by
  obtain ⟨i, v', hv', hwrites⟩ := effX25519_eq_writes s
  obtain rfl : v = v' := hv.trans hv'.symm
  rw [hwrites]
  exact ⟨State.setObuf_obuf _ _, State.setRes_setObuf_reads _ i (hv.trans_lt (affine_lt _)) _⟩

/-- It leaves every register from `F[8]` on valid. -/
theorem effX25519_fv (s : State) : ∀ r : Reg, 8 ≤ r → (effX25519 s).fv[r] = true := by
  intro r hlo
  obtain ⟨i, v, -, hwrites⟩ := effX25519_eq_writes s
  rw [hwrites, State.setObuf_fv]
  by_cases hr : r < 15
  · exact State.fv_setReg_of_fv (State.fv_setReg_of_fv (effLadder_fv_ladderRegs BU _ r hlo hr) RES i) RES v
  · obtain rfl : r = RES := le_antisymm (Fin.le_last r) (not_lt.1 hr)
    exact State.fv_setReg_self _ RES v

theorem effX25519_frame (s : State) :
    effX25519 s = { s with
      f := (effX25519 s).f, fv := (effX25519 s).fv, k := BitVec.ofNat 256 (clamp (le s.kbuf)), kv := true
      obuf := (effX25519 s).obuf, ov := true, lcnt := 0#8 } := by
  obtain ⟨i, v, -, hwrites⟩ := effX25519_eq_writes s
  rw [hwrites, effDecodeLadder_frame]
  rfl

/-- Settles O40: the ladder's registers hold the pure ladder, `RES` its affine value, and the other registers are no
destinations. -/
theorem x25519Result : Obligations.X25519Result := by
  unfold Obligations.X25519Result
  intro s hb
  have hothers : ∀ r : Reg, r < 8 → r ∉ destinations .x25519 := by decide
  have hwrites : State.WritesOnly (destinations .x25519) s (effX25519 s) := .effX25519 (.of_eq rfl rfl)
  have hvalid := effX25519_fv s
  have hframe := effX25519_frame s
  have hk : (effX25519 s).finish.k = BitVec.ofNat 256 (clamp (le s.kbuf)) := by rw [State.finish_k, hframe]
  obtain ⟨hpoints, hbu, ht⟩ := effDecodeLadder_reads BU s rfl rfl
  obtain ⟨hr0, hr1⟩ := Prod.ext_iff.1 hpoints
  obtain ⟨hobuf, hres, hkept⟩ := effX25519_reads s rfl
  refine ⟨_, exec_x25519_of_busy hb, ?_⟩
  generalize effX25519 s = t at *
  generalize effDecodeLadder BU s = e at *
  refine ⟨⟨hobuf, hk, ?_, ?_, ?_, ?_, ?_, ?_, ?_, hres⟩,
    fun r hr => ⟨hwrites.f r (hothers r hr), hwrites.fv r (hothers r hr)⟩, hvalid, ?_⟩
  · exact (hkept R0X (by decide)).trans (congrArg Point.x hr0)
  · exact (hkept R0Z (by decide)).trans (congrArg Point.z hr0)
  · exact (hkept R1X (by decide)).trans (congrArg Point.x hr1)
  · exact (hkept R1Z (by decide)).trans (congrArg Point.z hr1)
  · exact (hkept BU (by decide)).trans hbu
  · exact (hkept TX (by decide)).trans (congrArg Point.x ht)
  · exact (hkept TZ (by decide)).trans (congrArg Point.z ht)
  · rw [hframe]
    rfl

/-! ## The ignored input bits -/

/-- Bits 0 to 2 and from 254 on of the integer make no difference to the clamped one (42_codec.md R131). -/
theorem clamp_congr {m n : Nat} (h : ∀ i, ¬ (i < 3 ∨ 254 ≤ i) → m.testBit i = n.testBit i) : clamp m = clamp n := by
  apply Nat.eq_of_testBit_eq
  intro i
  rw [clamp_testBit, clamp_testBit]
  split_ifs with hclear htop
  · rfl
  · rfl
  · exact h i (by omega)

/-- Two buffers that agree on a set of bits of their integers, numbered by byte and bit. -/
theorem le_testBit_congr {b b' : Buffer} {p : Nat → Prop}
    (h : ∀ (j : Fin 32) (c : Fin 8), p (8 * (j : Nat) + c) → (b[j]).getLsbD c = (b'[j]).getLsbD c)
    {i : Nat} (hi : i < 256) (hp : p i) : (le b).testBit i = (le b').testBit i := by
  have hbit := h ⟨i / 8, by omega⟩ ⟨i % 8, by omega⟩
  rw [← le_testBit, ← le_testBit] at hbit
  simp only [Nat.div_add_mod] at hbit
  exact hbit hp

theorem decodeU_congr {c : Curve} {b b' : Buffer} (h : ∀ i < 255, (le b).testBit i = (le b').testBit i) :
    decodeU c b = decodeU c b' := by
  have hmasked : le b % 2 ^ 255 = le b' % 2 ^ 255 := by
    apply Nat.eq_of_testBit_eq
    intro i
    rw [Nat.testBit_mod_two_pow, Nat.testBit_mod_two_pow]
    by_cases hi : i < 255
    · rw [h i hi]
    · simp [hi]
  rw [decodeU, hmasked, decodeU]

/-- Settles O42: the output is a function of the clamped scalar and the decoded u-coordinate, and neither depends on the
ignored bits. -/
theorem ignoredInputBits : Obligations.IgnoredInputBits := by
  unfold Obligations.IgnoredInputBits
  intro s s' hb hb' hscalar hcoord
  have hk : clamp (le s.kbuf) = clamp (le s'.kbuf) :=
    clamp_congr fun i hi => le_testBit_congr (p := fun i => ¬ (i < 3 ∨ 254 ≤ i)) hscalar (by omega) hi
  have hu : decodeU Config.curve s.ubuf = decodeU Config.curve s'.ubuf :=
    decodeU_congr fun i hi => le_testBit_congr (p := fun i => i ≠ 255) hcoord (by omega) (by omega)
  obtain ⟨t, hexec, ⟨hobuf, -⟩, -⟩ := x25519Result s hb
  obtain ⟨t', hexec', ⟨hobuf', -⟩, -⟩ := x25519Result s' hb'
  refine ⟨t, t', hexec, hexec', ?_⟩
  rw [hobuf, hobuf', hk, hu]

/-! ## Infinity -/

/-- Once `r0` is `(0, 0)` the iterations with difference 0 leave it there, whatever the bits (43_ladder.md R169). -/
theorem ladderLoop_zero_point (k n : Nat) {q : Point} (hq : q.Reduced Config.curve) :
    (ladderLoop Config.curve k 0 n (⟨0, 0⟩, q)).1 = ⟨0, 0⟩ := by
  have hzero : (⟨0, 0⟩ : Point).Reduced Config.curve := ⟨curve_p_pos, curve_p_pos⟩
  have hdbl : xDbl Config.curve ⟨0, 0⟩ = ⟨0, 0⟩ := by decide
  have hadd (q : Point) : xAdd Config.curve ⟨0, 0⟩ q 0 = ⟨0, 0⟩ := by simp [xAdd, fadd, fsub, fmul]
  induction n generalizing q with
  | zero => rw [ladderLoop_zero]
  | succ n ih =>
    have hstep : (ladderStep Config.curve ⟨0, 0⟩ q 0 (scalarBit k n)).1 = ⟨0, 0⟩ := by
      rcases scalarBit_cases k n with hbit | hbit
      · rw [hbit, ladderStep_zero curve_one_lt_p 0 hzero, hdbl]
      · rw [hbit, ladderStep_one curve_one_lt_p 0 _ hq, hadd]
    have hreduced := (ladderStep_reduced curve_p_pos ⟨0, 0⟩ q 0 (scalarBit k n)).2
    rw [ladderLoop_succ, ← Prod.mk.eta (p := ladderStep Config.curve _ _ 0 _), hstep]
    exact ih hreduced

/-- The ladder of `u = 0` and a clamped scalar ends at `(0, 0)`: bit 254 is set, and its iteration leaves `r0 = (0, 0)`. -/
theorem ladder_clamp_zero (n : Nat) : ladder Config.curve (clamp n) 0 = ⟨0, 0⟩ := by
  have htop : scalarBit (clamp n) 254 = 1 := by
    rw [scalarBit, clamp_testBit]
    rfl
  have hfirst : ladderStep Config.curve ⟨1, 0⟩ ⟨0, 1⟩ 0 1 = (⟨0, 0⟩, ⟨1, 0⟩) := by decide
  rw [ladder, Config.nbits, ladderLoop_succ, htop, hfirst]
  exact ladderLoop_zero_point _ 254 ⟨curve_one_lt_p, curve_p_pos⟩

/-- Settles O43: at infinity the affine value is 0, and with `u = 0` the ladder ends at infinity. -/
theorem infinityGivesZeroOutput : Obligations.InfinityGivesZeroOutput := by
  unfold Obligations.InfinityGivesZeroOutput
  intro s hb
  obtain ⟨t, hexec, ⟨hobuf, -, hx, hz, -, -, -, -, -, hres⟩, -, -, hframe⟩ := x25519Result s hb
  have hinfinity (h : (ladder Config.curve (clamp (le s.kbuf)) (decodeU Config.curve s.ubuf)).z = 0) :
      t.f[15] = 0#256 ∧ t.obuf = Vector.replicate 32 0#8 :=
    ⟨BitVec.eq_of_toNat_eq (hres.trans (affine_of_z_eq_zero h)),
      hobuf.trans ((congrArg encodeBytes (affine_of_z_eq_zero h)).trans encodeBytes_zero)⟩
  have hflags : t.ov = true ∧ t.err = s.err := by rw [hframe]; exact ⟨rfl, rfl⟩
  refine ⟨t, hexec, hflags.1, hflags.2, hinfinity, fun hu => ?_⟩
  rw [hu, ladder_clamp_zero] at hx hz hinfinity
  exact ⟨BitVec.eq_of_toNat_eq hx, BitVec.eq_of_toNat_eq hz, (hinfinity rfl).2⟩

end Sys2Proof.Machine

/-! PROOF. X25519 as six commands (spec 44_x25519.md R181): no effect depends on the flags, the latched words or the port, so
commands written one after the other to an idle block add up their effects. -/

namespace Sys2Proof.Machine

/-! ## Data under other control -/

/-- The data of `s` (registers, buffers, their valid bits, `LCNT`) under the flags, latched words and port of `c`. -/
def State.withControl (s c : State) : State :=
  { s with
    busy := c.busy, done := c.done, err := c.err, ie := c.ie, ecode := c.ecode, einfo := c.einfo, cur := c.cur
    sched := c.sched, answers := c.answers }

section

variable (s c : State)

/-! Over the long commands this goes through their lemmas: a `rfl` would make the kernel unroll the ladder. -/

theorem repeatLstep_withControl (n : Nat) : repeatLstep n (s.withControl c) = (repeatLstep n s).withControl c := by
  induction n with
  | zero => rw [repeatLstep_zero, repeatLstep_zero]
  | succ n ih =>
    rw [repeatLstep_succ', repeatLstep_succ', ih]
    rfl

theorem effLadder_withControl (ra : Reg) : effLadder ra (s.withControl c) = (effLadder ra s).withControl c := by
  rw [effLadder_eq, effLadder_eq, ← repeatLstep_withControl]
  rfl

theorem effDecode_withControl : effDecu BU (effDeck (s.withControl c)) = (effDecu BU (effDeck s)).withControl c := rfl

theorem effConvert_withControl :
    effEnc RES (effFmul RES R0X RES (effFinv RES R0Z (s.withControl c))) =
      (effEnc RES (effFmul RES R0X RES (effFinv RES R0Z s))).withControl c := rfl

theorem effX25519_withControl : effX25519 (s.withControl c) = (effX25519 s).withControl c := by
  rw [effX25519_eq, effX25519_eq, effDecode_withControl, effLadder_withControl, effConvert_withControl]

/-- The effect of every command is on the data alone. -/
theorem effectOf_withControl (i : Instr) : effectOf i (s.withControl c) = (effectOf i s).withControl c := by
  cases i with
  | ladder ra => exact effLadder_withControl s c ra
  | x25519 => exact effX25519_withControl s c
  | _ => rfl

end

/-! ## Commands through the port -/

/-- A command that finds what it needs passes its checks, if it reads no bit of the scalar. -/
theorem check_of_meets {i : Instr} {s : State} (hm : s.Meets (needs i)) (hbit : (needs i).bit = false) :
    check i s = none := by
  have hlength : ¬ (((needs i).kbuf && !s.kbFull) || ((needs i).ubuf && !s.ubFull)) = true := by
    simp only [Bool.or_eq_true, Bool.and_eq_true, Bool.not_eq_true', not_or, not_and, Bool.not_eq_false]
    exact ⟨fun h => s.kbFull_iff.2 (hm.kbuf h), fun h => s.ubFull_iff.2 (hm.ubuf h)⟩
  have hoperands : ¬ (!((needs i).regs.all fun r => s.fv[r]) || ((needs i).k && !s.kv)) = true := by
    simp only [Bool.or_eq_true, Bool.and_eq_true, Bool.not_eq_true', not_or, not_and, Bool.not_eq_false,
      List.all_eq_true]
    exact ⟨hm.regs, hm.k⟩
  rw [check, checkNeeds, if_neg hlength, if_neg hoperands, hbit]
  rfl

/-- Each command is written to `CMD` and completes before the next (60_exceptions.md R201, R203). -/
def commandEvents : List Instr → List Event
  | [] => []
  | i :: is => .write 0x60 4 (encode i) :: .complete :: commandEvents is

/-- The effects of commands, the first applied first. -/
def effectsOf : List Instr → State → State
  | [], s => s
  | i :: is, s => effectsOf is (effectOf i s)

/-- Each command passes its checks in the state those before it leave. -/
def PassInTurn : List Instr → State → Prop
  | [], _ => True
  | i :: is, s => check i s = none ∧ PassInTurn is (effectOf i s)

theorem issue_of_check {i : Instr} {s : State} (h : check i s = none) : issue i s = s.accept (encode i) := by
  rw [issue, h]

/-- The state after a `CMD` write that is accepted, with `rest` still to come (60_exceptions.md R201). -/
def State.afterCmdWrite (s : State) (i : Instr) (rest : List Event) : State :=
  { s with sched := rest, answers := .okay :: s.answers }.accept (encode i)

theorem step_of_accepted {i : Instr} {s : State} {rest : List Event} (hidle : s.Idle)
    (hsched : s.sched = .write 0x60 4 (encode i) :: rest) (hpass : check i s = none) :
    step s = .next (s.afterCmdWrite i rest) := by
  calc step s = exec i { s with sched := rest, answers := .okay :: s.answers } :=
        stepRunsWrittenCommand s rest _ i hidle hsched (decode_encode i)
    _ = .next (issue i { s with sched := rest, answers := .okay :: s.answers }) := exec_of_not_busy hidle.1
    _ = .next (s.afterCmdWrite i rest) := congrArg Host.Outcome.next (issue_of_check hpass)

theorem step_of_complete {i : Instr} {s : State} {rest : List Event} (hb : s.busy = true) (hcur : s.cur = encode i)
    (hsched : s.sched = .complete :: rest) : step s = .next (effectOf i { s with sched := rest }).finish := by
  have hlatched : decode ({ s with sched := rest } : State).cur = .ok i := (congrArg decode hcur).trans (decode_encode i)
  rw [← sequencer_of_latched (s := { s with sched := rest }) hb hlatched, step, turn, hsched]
  rfl

/-- Written to an idle block, a command that passes its checks is accepted, and `Complete` applies its effect; the block is
idle again. -/
theorem run_command {i : Instr} {s c : State} {rest : List Event} (n : Nat) (hidle : c.Idle)
    (hsched : c.sched = .write 0x60 4 (encode i) :: .complete :: rest) (hpass : check i s = none) :
    ∃ c' : State, c'.Idle ∧ c'.sched = rest ∧
      core.run (n + 2) (s.withControl c) = core.run n ((effectOf i s).withControl c') := by
  have hwrite : step (s.withControl c) = .next (s.withControl (c.afterCmdWrite i (.complete :: rest))) :=
    step_of_accepted hidle hsched hpass
  have hcomplete : step (s.withControl (c.afterCmdWrite i (.complete :: rest))) =
      .next (effectOf i (s.withControl (c.afterCmdWrite i rest))).finish :=
    step_of_complete rfl rfl rfl
  refine ⟨(c.afterCmdWrite i rest).finish, ⟨rfl, hidle.2⟩, rfl, ?_⟩
  rw [run_succ_of_step (n + 1) hwrite, run_succ_of_step n hcomplete, effectOf_withControl]
  rfl

/-- Commands that each pass their checks run one after the other, and their effects add up. -/
theorem run_commands {is : List Instr} {s c : State} (hidle : c.Idle) (hsched : c.sched = commandEvents is)
    (hpass : PassInTurn is s) :
    ∃ c' : State, c'.Idle ∧ core.run (2 * is.length) (s.withControl c) = .next ((effectsOf is s).withControl c') := by
  induction is generalizing s c with
  | nil => exact ⟨c, hidle, rfl⟩
  | cons i is ih =>
    obtain ⟨hcheck, hrest⟩ := hpass
    obtain ⟨c', hidle', hsched', hrun⟩ := run_command (2 * is.length) hidle hsched hcheck
    obtain ⟨c'', hidle'', hruns⟩ := ih hidle' hsched' hrest
    exact ⟨c'', hidle'', hrun.trans hruns⟩

/-! ## The six commands -/

/-- The commands of 44_x25519.md R181, with any registers: `a` for the u-coordinate, `b` for the inverse, `c` for the result. -/
def sixCommands (a b c : Reg) : List Instr :=
  [.deck, .decu a, .ladder a, .finv b R0Z, .fmul c R0X b, .enc c]

theorem effectsOf_sixCommands (a b c : Reg) (s : State) :
    effectsOf (sixCommands a b c) s = effEnc c (effFmul c R0X b (effFinv b R0Z (effDecodeLadder a s))) := rfl

theorem effectsOf_sixCommands_eq_effX25519 (s : State) : effectsOf (sixCommands BU RES RES) s = effX25519 s := by
  rw [effectsOf_sixCommands, effX25519_eq, effDecodeLadder]

/-- The last three commands encode the affine value of `r0`; `b` must leave its X in `F[8]`. -/
theorem effConvert_obuf (c : Reg) {b : Reg} (hb : b ≠ R0X) (e : State) :
    (effEnc c (effFmul c R0X b (effFinv b R0Z e))).obuf = encodeBytes (affine e.r0) := by
  have hinverse : (effFinv b R0Z e).reg b = finv Config.curve (e.reg R0Z) :=
    State.reg_setReg_self _ b _ ((finv_lt curve_one_lt_p _).trans Config_P_lt)
  have hx : (effFinv b R0Z e).reg R0X = e.reg R0X := State.reg_setReg_ne _ _ _ _ hb
  have hproduct : (effFmul c R0X b (effFinv b R0Z e)).reg c = affine e.r0 := by
    rw [effFmul, hinverse, hx]
    exact State.reg_setReg_self _ c _ (affine_lt e.r0)
  exact congrArg encodeBytes hproduct

/-- Whatever the registers, the six commands give the one output. -/
theorem sixCommands_obuf (a c : Reg) {b : Reg} (hb : b ≠ R0X) (s : State) :
    (effectsOf (sixCommands a b c) s).obuf =
      encodeBytes (affine (ladder Config.curve (clamp (le s.kbuf)) (decodeU Config.curve s.ubuf))) := by
  rw [effectsOf_sixCommands, effConvert_obuf c hb, effDecodeLadder_r0]

/-- Loaded buffers are all they need: what a later command reads an earlier one has written. -/
theorem sixCommands_passInTurn (a b c : Reg) {s : State} (hk : s.KLoaded) (hu : s.ULoaded) :
    PassInTurn (sixCommands a b c) s := by
  have hx : (effDecodeLadder a s).fv[R0X] = true := effLadder_fv a _ R0X (by decide)
  have hz : (effDecodeLadder a s).fv[R0Z] = true := effLadder_fv a _ R0Z (by decide)
  refine ⟨check_of_meets ⟨fun _ => hk, nofun, nofun, nofun⟩ rfl,
    check_of_meets ⟨nofun, fun _ => hu, nofun, nofun⟩ rfl,
    check_of_meets ⟨nofun, nofun, ?_, fun _ => rfl⟩ rfl, check_of_meets ⟨nofun, nofun, ?_, nofun⟩ rfl,
    check_of_meets ⟨nofun, nofun, ?_, nofun⟩ rfl, check_of_meets ⟨nofun, nofun, ?_, nofun⟩ rfl, trivial⟩
  · exact List.forall_mem_singleton.2 (State.fv_setReg_self _ a _)
  · exact List.forall_mem_singleton.2 hz
  · exact List.forall_mem_cons.2 ⟨State.fv_setReg_of_fv hx b _,
      List.forall_mem_singleton.2 (State.fv_setReg_self _ b _)⟩
  · exact List.forall_mem_singleton.2 (State.fv_setReg_self _ c _)

/-- So are they all that X25519 needs. -/
theorem x25519_passInTurn {s : State} (hk : s.KLoaded) (hu : s.ULoaded) : PassInTurn [.x25519] s :=
  ⟨check_of_meets ⟨fun _ => hk, fun _ => hu, nofun, nofun⟩ rfl, trivial⟩

/-- Settles O41: both runs reach idle states, the one with the effect of X25519, the other with the effects of the six, which
encode the same value whatever the registers, and are the effect of X25519 for the registers of R180. -/
theorem x25519IsCommandSequence : Obligations.X25519IsCommandSequence := by
  unfold Obligations.X25519IsCommandSequence
  intro s a b c hidle hk hu hb
  obtain ⟨d, hd, hone⟩ := run_commands (s := s) (c := { s with sched := commandEvents [.x25519] }) hidle rfl
    (x25519_passInTurn hk hu)
  obtain ⟨d', hd', hsix⟩ := run_commands (s := s) (c := { s with sched := commandEvents (sixCommands a b c) }) hidle rfl
    (sixCommands_passInTurn a b c hk hu)
  have hobuf := (sixCommands_obuf a c hb s).trans (effX25519_reads s rfl).1.symm
  have hov : (effX25519 s).ov = true := by rw [effX25519_frame]
  refine ⟨_, _, hone, hsix, hd.1, hd.2, hd'.1, hd'.2, hobuf, hov.symm, ?_⟩
  rintro rfl rfl rfl
  rw [effectsOf_sixCommands_eq_effX25519]
  exact ⟨rfl, rfl, rfl, rfl, rfl, rfl, fun _ _ => rfl⟩

end Sys2Proof.Machine

/-! PROOF. The life of a command (spec 60_exceptions.md R201 to R212): which fault a word raises, what the `CMD` write and the
sequencer's turn do with it, and what its completion leaves as it was. -/

namespace Sys2Proof.Machine

/-! ## The checks, by what a command needs (R205) -/

theorem checkWord_of_error {w : Word} {r : Reject} (h : decode w = .error r) (s : State) :
    checkWord w s = some .illegalCommand := by
  simp only [checkWord, h]

theorem checkWord_of_ok {w : Word} {i : Instr} (h : decode w = .ok i) (s : State) : checkWord w s = check i s := by
  simp only [checkWord, h]

/-- A command that needs a buffer which is not full fails the first check, whatever else it needs. -/
theorem check_of_not_loaded {i : Instr} {s : State}
    (h : (needs i).kbuf = true ∧ ¬ s.KLoaded ∨ (needs i).ubuf = true ∧ ¬ s.ULoaded) :
    check i s = some .invalidInputLength := by
  rw [← s.kbFull_iff, ← s.ubFull_iff, Bool.not_eq_true, Bool.not_eq_true] at h
  rw [check, checkNeeds, if_pos (by simpa using h)]

/-- A command that needs no buffer needs its registers and perhaps `K` valid, then perhaps a bit of the scalar left. -/
theorem check_of_operands {i : Instr} {regs : List Reg} {k bit : Bool}
    (h : needs i = { regs := regs, k := k, bit := bit }) (s : State) :
    check i s =
      if (∀ r ∈ regs, s.fv[r] = true) ∧ (k = true → s.kv = true) then
        if bit = true ∧ s.lcnt = 0#8 then some .ladderSequence else none
      else some .uninitialisedOperand := by
  have hoperands : (!(regs.all fun r => s.fv[r]) || (k && !s.kv)) = true ↔
      ¬ ((∀ r ∈ regs, s.fv[r] = true) ∧ (k = true → s.kv = true)) := by
    rw [← List.all_eq_true (p := fun r => s.fv[r])]
    cases regs.all fun r => s.fv[r] <;> simp
  simp only [check, checkNeeds, h, hoperands, ite_not, Bool.and_eq_true, beq_iff_eq, Bool.false_and, Bool.or_false,
    Bool.false_eq_true, if_false]

/-- Settles O14, row by row of the table: a row is what its commands need, so each follows from the check of that kind of need. -/
theorem checkTable : Obligations.CheckTable := by
  unfold Obligations.CheckTable
  intro s
  refine ⟨fun w r h => checkWord_of_error h s, fun w i h => checkWord_of_ok h s, ?arithmetic, ?fpow, ?oneRegister, ?ladder,
    ?scalarBytes, ?decu, ?x25519, ?ladd, ?ldbl, ?lswap, ?lstep⟩
  case arithmetic =>
    intro rd ra rb i hi
    have hneeds : needs i = { regs := [ra, rb] } := by
      simp only [List.mem_cons, List.not_mem_nil, or_false] at hi
      rcases hi with rfl | rfl | rfl <;> rfl
    simp [check_of_operands hneeds]
  case fpow =>
    intro rd ra
    simp [check_of_operands (i := .fpow rd ra) rfl]
  case oneRegister =>
    intro rd ra i hi
    have hneeds : needs i = { regs := [ra] } := by
      simp only [List.mem_cons, List.not_mem_nil, or_false] at hi
      rcases hi with rfl | rfl | rfl <;> rfl
    simp [check_of_operands hneeds]
  case ladder =>
    intro ra
    simp [check_of_operands (i := .ladder ra) rfl]
  case scalarBytes =>
    intro i hi
    have hneeds : needs i = { kbuf := true } := by
      simp only [List.mem_cons, List.not_mem_nil, or_false] at hi
      rcases hi with rfl | rfl <;> rfl
    refine ⟨fun hk => check_of_meets ?_ (by rw [hneeds]), fun hk => check_of_not_loaded (.inl ⟨by rw [hneeds], hk⟩)⟩
    rw [hneeds]
    exact ⟨fun _ => hk, nofun, nofun, nofun⟩
  case decu =>
    intro rd
    exact ⟨fun hu => check_of_meets ⟨nofun, fun _ => hu, nofun, nofun⟩ rfl,
      fun hu => check_of_not_loaded (.inr ⟨rfl, hu⟩)⟩
  case x25519 =>
    refine ⟨fun ⟨hk, hu⟩ => check_of_meets ⟨fun _ => hk, fun _ => hu, nofun, nofun⟩ rfl,
      fun hnot => check_of_not_loaded ?_⟩
    exact (not_and_or.1 hnot).imp (⟨rfl, ·⟩) (⟨rfl, ·⟩)
  case ladd => simp [check_of_operands (i := .ladd) rfl]
  case ldbl => simp [check_of_operands (i := .ldbl) rfl]
  case lswap =>
    rw [check_of_operands (i := .lswap) rfl, ite_not]
    simp [and_assoc]
  case lstep =>
    rw [check_of_operands (i := .lstep) rfl, ite_not]
    simp [and_assoc]

/-! ## Fault entry and acceptance (R201, R202) -/

theorem issue_of_fault {i : Instr} {s : State} {c : CmdFault} (h : check i s = some c) :
    issue i s = s.raise c (encode i) := by
  rw [issue, h]

/-- Settles O13: while `BUSY = 0` the move is the one the check decides. -/
theorem commandIsAcceptedOrFaults : Obligations.CommandIsAcceptedOrFaults := by
  unfold Obligations.CommandIsAcceptedOrFaults
  intro i s hb
  rw [exec_of_not_busy hb]
  exact ⟨fun hpass => congrArg _ (issue_of_check hpass), fun c hfault => congrArg _ (issue_of_fault hfault)⟩

/-- A word that fails a check raises its fault, whether or not it is a command. -/
theorem writeCmd_of_fault {w : Word} {s : State} {c : CmdFault} (hb : s.busy = false) (h : checkWord w s = some c) :
    writeCmd w s = .next (s.raise c w) := by
  rcases writeCmd_cases w s with ⟨r, hr, hillegal⟩ | ⟨i, hi, hexec⟩
  · obtain rfl : CmdFault.illegalCommand = c := Option.some.inj ((checkWord_of_error hr s).symm.trans h)
    exact hillegal
  · rw [checkWord_of_ok hi] at h
    rw [hexec, exec_of_not_busy hb, issue_of_fault h, encode_of_decode hi]

/-- A word that fails none is latched as it was written. -/
theorem writeCmd_of_pass {w : Word} {s : State} (hb : s.busy = false) (h : checkWord w s = none) :
    writeCmd w s = .next (s.accept w) := by
  rcases writeCmd_cases w s with ⟨r, hr, -⟩ | ⟨i, hi, hexec⟩
  · cases (checkWord_of_error hr s).symm.trans h
  · rw [checkWord_of_ok hi] at h
    rw [hexec, exec_of_not_busy hb, issue_of_check h, encode_of_decode hi]

/-- Busy or faulted, the block refuses the `CMD` write before it looks at the word (20_memory.md R57, R204). -/
theorem memWrite_cmd_of_not_idle {s : State} (h : s.busy = true ∨ s.err = true) (w : Word) :
    memWrite 0x60 4 w s = .next (s.answer .error) := by
  rcases memWrite_cases 0x60 4 w s with herr | ⟨haddr, -⟩ | ⟨-, haddr, -⟩ | ⟨hb, he, -⟩
  · exact herr
  · cases haddr
  · omega
  · simp [hb, he] at h

/-- Settles O12: idle, the write reaches the decoder and the check of the word decides; otherwise it is refused. -/
theorem cmdWriteProcedure : Obligations.CmdWriteProcedure := by
  unfold Obligations.CmdWriteProcedure
  intro s rest w hs
  rw [step_of_write hs]
  refine ⟨fun hidle => ?_, fun hnot => memWrite_cmd_of_not_idle (s := { s with sched := rest }) hnot w⟩
  rw [memWrite_cmd_of_idle (s := { s with sched := rest }) hidle]
  exact ⟨fun c hfault => writeCmd_of_fault hidle.1 hfault, fun hpass => writeCmd_of_pass hidle.1 hpass⟩

/-! ## The sequencer's turn (R203) -/

theorem sequencer_eq_exec {i : Instr} {s : State} (hb : s.busy = true) (hi : decode s.cur = .ok i) :
    sequencer s = exec i s :=
  (sequencer_of_latched hb hi).trans (exec_of_busy hb).symm

/-- Settles O11: with its turn next, or with nothing else to come, the sequencer runs the latched command. -/
theorem stepRunsLatchedCommand : Obligations.StepRunsLatchedCommand := by
  unfold Obligations.StepRunsLatchedCommand
  intro s i hb hi
  rcases step_cases s with ⟨hnil, hseq⟩ | ⟨e, rest, hcons, hperf⟩
  · exact ⟨fun rest hs => (by cases hnil.symm.trans hs), fun _ => hseq.trans (sequencer_eq_exec hb hi)⟩
  · refine ⟨fun rest' hs => ?_, fun hnil => by cases hcons.symm.trans hnil⟩
    obtain ⟨rfl, rfl⟩ := List.cons.inj (hcons.symm.trans hs)
    exact hperf.trans (sequencer_eq_exec (s := { s with sched := rest }) hb hi)

/-- With the invariants the sequencer never stops: while `BUSY = 1` a command is latched (10_state.md R31). -/
theorem State.Inv.sequencer_next {s : State} (h : s.Inv) : ∃ t, Machine.sequencer s = .next t := by
  cases hb : s.busy with
  | false => exact ⟨s, sequencer_of_not_busy hb⟩
  | true =>
    obtain ⟨i, hi, -⟩ := h.latched hb
    exact ⟨_, sequencer_of_latched hb hi⟩

/-- Nor does any event: the port answers every transaction. -/
theorem State.Inv.perform_next {s : State} (h : s.Inv) (e : Event) : ∃ t, Machine.perform e s = .next t := by
  cases e with
  | read addr n => exact ⟨_, perform_read addr n s⟩
  | write addr n v =>
    rcases memWrite_refused_or_okay addr n v s with hrefused | ⟨t, htaken, -⟩
    · exact ⟨_, hrefused⟩
    · exact ⟨t, htaken⟩
  | resetLine => exact ⟨_, rfl⟩
  | complete => exact h.sequencer_next

/-- Settles O5: a step is the sequencer's turn or an event, and neither stops. -/
theorem blockNeverStops : Obligations.BlockNeverStops := by
  unfold Obligations.BlockNeverStops
  intro s h
  rcases step_cases s with ⟨-, hseq⟩ | ⟨e, rest, -, hperf⟩
  · rw [hseq]
    exact h.sequencer_next
  · rw [hperf]
    exact (h.setHost rest s.answers).perform_next e

/-! ## The end of a command (R203, R211) -/

/-- Settles O17: completion and fault entry both set `DONE`, and neither touches `IE` (10_state.md R47). -/
theorem endOfCommandRaisesIrq : Obligations.EndOfCommandRaisesIrq := by
  unfold Obligations.EndOfCommandRaisesIrq
  intro i s hend
  cases hb : s.busy with
  | true =>
    have hie : (effectOf i s).finish.ie = s.ie := by rw [State.finish_ie, (effectOf_extends i s).frame]
    exact ⟨_, exec_of_busy hb, rfl, rfl, by rw [State.irq, hie, State.finish_done, Bool.and_true]⟩
  | false =>
    obtain ⟨c, hfault⟩ := Option.ne_none_iff_exists'.1 (hend.resolve_left (by simp [hb]))
    refine ⟨s.raise c (encode i), ?_, hb, rfl, Bool.and_true _⟩
    rw [exec_of_not_busy hb, issue_of_fault hfault]

/-! ## What completion leaves unchanged (R203, 10_state.md R22, R25, R28, R29) -/

/-- What an effect never writes: the input buffers, the flags but `OV`, the latched words, the port. -/
theorem State.Extends.keeps {s t : State} (h : s.Extends t) :
    t.kbuf = s.kbuf ∧ t.kbv = s.kbv ∧ t.ubuf = s.ubuf ∧ t.ubv = s.ubv ∧ t.err = s.err ∧ t.ecode = s.ecode ∧
      t.einfo = s.einfo ∧ t.ie = s.ie ∧ t.cur = s.cur ∧ t.sched = s.sched ∧ t.answers = s.answers := by
  rw [h.frame]
  exact ⟨rfl, rfl, rfl, rfl, rfl, rfl, rfl, rfl, rfl, rfl, rfl⟩

/-- A command that is none of the three writers of `K` leaves its valid bit. -/
theorem effectOf_kv {i : Instr} (h : i.opcode ∉ [.decle, .deck, .x25519]) (s : State) : (effectOf i s).kv = s.kv := by
  cases i with
  | decle => exact absurd (by simp [Instr.opcode]) h
  | deck => exact absurd (by simp [Instr.opcode]) h
  | x25519 => exact absurd (by simp [Instr.opcode]) h
  | ladder ra => rw [effectOf, effLadder_frame]
  | _ => rfl

/-- A command that is neither of the two writers of `OBUF` leaves `OV`. -/
theorem effectOf_ov {i : Instr} (h : i.opcode ∉ [.enc, .x25519]) (s : State) : (effectOf i s).ov = s.ov := by
  cases i with
  | enc _ => exact absurd (by simp [Instr.opcode]) h
  | x25519 => exact absurd (by simp [Instr.opcode]) h
  | ladder ra => rw [effectOf, effLadder_frame]
  | _ => rfl

theorem State.setPoint_fv_valid (s : State) (x z : Reg) (p : Point) : ∀ r ∈ [x, z], (s.setPoint x z p).fv[r] = true :=
  List.forall_mem_cons.2 ⟨State.fv_setReg_of_fv (State.fv_setReg_self s x _) z _,
    List.forall_mem_singleton.2 (State.fv_setReg_self _ z _)⟩

theorem State.setR01_fv_valid (s : State) (q : Point × Point) :
    ∀ r ∈ [R0X, R0Z, R1X, R1Z], (s.setR01 q).fv[r] = true := by
  simp [State.setR01, State.setPoint]

theorem effLstep_fv (s : State) : ∀ r ∈ destinations .lstep, (effLstep s).fv[r] = true := by
  simp [destinations, effLstep, State.setR01, State.setPoint]

/-- Every destination of a command is valid when it completes (10_state.md R23). -/
theorem effectOf_fv_of_mem_destinations {i : Instr} {r : Reg} (hr : r ∈ destinations i) (s : State) :
    (effectOf i s).fv[r] = true := by
  have hone {rd : Reg} {v : Nat} (h : r ∈ [rd]) : (s.setReg rd v).fv[r] = true := by
    rw [List.mem_singleton.1 h]
    exact State.fv_setReg_self s rd v
  cases i with
  | fadd | fsub | fmul | fpow | finv | decu => exact hone hr
  | decle | deck | enc => cases hr
  | ladd => exact s.setPoint_fv_valid TX TZ _ r hr
  | lswap | ldbl => exact s.setR01_fv_valid _ r hr
  | linit ra => exact effLinit_fv ra s r hr
  | lstep => exact effLstep_fv s r hr
  | ladder ra =>
    have hrange : ∀ r ∈ destinations (.ladder 0), 8 ≤ r ∧ r < 15 := by decide
    obtain ⟨hlo, hhi⟩ := hrange r hr
    exact effLadder_fv_ladderRegs ra s r hlo hhi
  | x25519 =>
    have hrange : ∀ r ∈ destinations .x25519, 8 ≤ r := by decide
    exact effX25519_fv s r (hrange r hr)

/-- Settles O18: no effect writes more than `F`, `K`, `OBUF`, `LCNT` and their valid bits, and each command of these only what
it is a writer of. -/
theorem completionFrame : Obligations.CompletionFrame := by
  unfold Obligations.CompletionFrame
  intro i s hb
  obtain ⟨hkbuf, hkbv, hubuf, hubv, herr, hecode, heinfo, hie, hcur, hsched, hanswers⟩ := (effectOf_extends i s).keeps
  have hregs := effectOf_writesOnly i s
  exact ⟨_, exec_of_busy hb, rfl, rfl, hkbuf, hkbv, hubuf, hubv, herr, hecode, heinfo, hie, hcur, hsched, hanswers,
    fun r hr => ⟨hregs.f r hr, hregs.fv r hr⟩, fun r hr => effectOf_fv_of_mem_destinations hr s,
    fun h => ⟨effectOf_k h s, effectOf_kv h s⟩, fun h => ⟨effectOf_obuf h s, effectOf_ov h s⟩,
    fun h => effectOf_lcnt (mt (List.Perm.swap _ _ _).mem_iff.1 h) s⟩

end Sys2Proof.Machine

/-! PROOF. Idle and data-independent (spec 70_reset_and_hazards.md R230, R247, 43_ladder.md R157): an idle block with nothing
to do stays as it is, and each operation, whatever values it is given, takes two states that differ in data only to states
that differ in data only. -/

namespace Sys2Proof.Machine

/-! ## The idle block -/

/-- With the schedule at its end the sequencer moves (00_scope.md R12). -/
theorem step_of_sched_nil {s : State} (h : s.sched = []) : step s = sequencer s := by
  rw [step, turn, h]

/-- A turn on the schedule is given to the sequencer (60_exceptions.md R203). -/
theorem step_of_turn {s : State} {rest : List Event} (h : s.sched = .complete :: rest) :
    step s = sequencer { s with sched := rest } := by
  rw [step, turn, h]
  rfl

/-- Settles O2: while `BUSY = 0` the sequencer's turn passes, whether given on the schedule or at its end. -/
theorem idleBlockWaits : Obligations.IdleBlockWaits := by
  unfold Obligations.IdleBlockWaits
  have hwaits (s : State) (hb : s.busy = false) (hs : s.sched = []) : step s = .next s :=
    (step_of_sched_nil hs).trans (sequencer_of_not_busy hb)
  exact ⟨hwaits, hwaits State.reset rfl rfl, fun _ _ hb hs => (step_of_turn hs).trans (sequencer_of_not_busy hb)⟩

/-! ## Two states that differ in data only -/

/-- The two states are the same once every data value is forgotten (70_reset_and_hazards.md R247). -/
def State.SameControl (s t : State) : Prop := s.eraseData = t.eraseData

/-- An answer that carries data shows, of its kind, only that it does. -/
theorem Response.kind_okayRead (v : Word) : (Response.okayRead v).kind = .okayRead 0#32 := rfl

namespace State.SameControl

variable {s t : State}

/-- An operation whose effect on the control state is a function `g` of the control state. -/
theorem of_control (h : s.SameControl t) (g : State → State) {s' t' : State} (hs : s'.eraseData = g s.eraseData)
    (ht : t'.eraseData = g t.eraseData) : s'.SameControl t' :=
  hs.trans ((congrArg g h).trans ht.symm)

theorem busy_eq (h : s.SameControl t) : s.busy = t.busy := congrArg (·.busy) h

theorem err_eq (h : s.SameControl t) : s.err = t.err := congrArg (·.err) h

theorem ov_eq (h : s.SameControl t) : s.ov = t.ov := congrArg (·.ov) h

theorem lcnt_eq (h : s.SameControl t) : s.lcnt = t.lcnt := congrArg (·.lcnt) h

theorem cur_eq (h : s.SameControl t) : s.cur = t.cur := congrArg (·.cur) h

theorem sched_eq (h : s.SameControl t) : s.sched = t.sched := congrArg (·.sched) h

/-- The checks look at valid bits and `LCNT` only (60_exceptions.md R205). -/
theorem check_eq (h : s.SameControl t) (i : Instr) : check i s = check i t :=
  check_congr i (congrArg (·.fv) h) (congrArg (·.kv) h) (congrArg (·.kbv) h) (congrArg (·.ubv) h) h.lcnt_eq

/-- The kind of answer a read gets shows no data; the bytes of `OBUF` are what its answer carries (20_memory.md R62). -/
theorem memRead_kind (h : s.SameControl t) (addr n : Nat) : (memRead addr n s).kind = (memRead addr n t).kind := by
  simp only [memRead, h.busy_eq, h.ov_eq, apply_ite Response.kind, Response.kind_okayRead]

/-! ## A write of any values in both states -/

theorem setReg (h : s.SameControl t) (i : Reg) (v w : Nat) : (s.setReg i v).SameControl (t.setReg i w) :=
  h.of_control (fun e => { e with fv := e.fv.set i true }) rfl rfl

theorem setK (h : s.SameControl t) (v w : Nat) : (s.setK v).SameControl (t.setK w) :=
  h.of_control (fun e => { e with kv := true }) rfl rfl

theorem setObuf (h : s.SameControl t) (b c : Buffer) : (s.setObuf b).SameControl (t.setObuf c) :=
  h.of_control (fun e => { e with ov := true }) rfl rfl

/-- `LCNT` is control: only the same value keeps the states alike. -/
theorem setLcnt (h : s.SameControl t) {v w : BitVec 8} (hvw : v = w) :
    ({ s with lcnt := v } : State).SameControl { t with lcnt := w } := by
  subst hvw
  exact h.of_control (fun e => { e with lcnt := v }) rfl rfl

theorem setPoint (h : s.SameControl t) (x z : Reg) (p q : Point) : (s.setPoint x z p).SameControl (t.setPoint x z q) :=
  (h.setReg x p.x q.x).setReg z p.z q.z

theorem setR01 (h : s.SameControl t) (r q : Point × Point) : (s.setR01 r).SameControl (t.setR01 q) :=
  (h.setPoint R0X R0Z r.1 q.1).setPoint R1X R1Z r.2 q.2

theorem setSched (h : s.SameControl t) (sched : List Event) :
    ({ s with sched := sched } : State).SameControl { t with sched := sched } :=
  h.of_control (fun e => { e with sched := sched }) rfl rfl

theorem answer (h : s.SameControl t) {r r' : Response} (hr : r.kind = r'.kind) :
    (s.answer r).SameControl (t.answer r') :=
  congrArg₂ State.answer h hr

theorem raise (h : s.SameControl t) (c : CmdFault) (w : Word) : (s.raise c w).SameControl (t.raise c w) :=
  h.of_control (·.raise c w) rfl rfl

theorem accept (h : s.SameControl t) (w : Word) : (s.accept w).SameControl (t.accept w) :=
  h.of_control (·.accept w) rfl rfl

theorem finish (h : s.SameControl t) : s.finish.SameControl t.finish := h.of_control State.finish rfl rfl

theorem resetBlock (h : s.SameControl t) : s.resetBlock.SameControl t.resetBlock :=
  h.of_control State.resetBlock rfl rfl

/-- A `CTRL` write acts on the flags by the flags (10_state.md R36). -/
theorem writeCtrl (h : s.SameControl t) (v : Word) : (s.writeCtrl v).SameControl (t.writeCtrl v) := by
  cases h31 : v.getLsbD 31 with
  | true =>
    rw [State.writeCtrl_of_srst h31, State.writeCtrl_of_srst h31]
    exact h.resetBlock
  | false =>
    have hflags := congrArg (State.writeCtrl · v) h
    simp only [State.writeCtrl_of_not_srst h31] at hflags ⊢
    exact hflags

/-- Which valid bit a stored byte sets depends on its address alone (20_memory.md R53). -/
theorem storeByte (h : s.SameControl t) (a : Nat) (b : Byte) : (s.storeByte a b).SameControl (t.storeByte a b) := by
  unfold State.storeByte
  split
  · exact h.of_control (fun e => { e with kbv := e.kbv.setIfInBounds a true }) rfl rfl
  · exact h.of_control (fun e => { e with ubv := e.ubv.setIfInBounds (a - 0x20) true }) rfl rfl

theorem storeBytes (h : s.SameControl t) (addr : Nat) (v : Word) (n : Nat) :
    (s.storeBytes addr v n).SameControl (t.storeBytes addr v n) := by
  induction n with
  | zero => exact h
  | succ n ih => exact ih.storeByte _ _

/-! ## The effects of the commands -/

theorem effLinit (h : s.SameControl t) (ra : Reg) : (effLinit ra s).SameControl (effLinit ra t) :=
  ((h.setR01 _ _).setReg BU _ _).setLcnt rfl

theorem effLstep (h : s.SameControl t) : (effLstep s).SameControl (effLstep t) :=
  ((h.setR01 _ _).setPoint TX TZ _ _).setLcnt (by rw [h.lcnt_eq])

theorem repeatLstep (h : s.SameControl t) (n : Nat) : (repeatLstep n s).SameControl (repeatLstep n t) := by
  induction n with
  | zero => rwa [repeatLstep_zero, repeatLstep_zero]
  | succ n ih =>
    rw [repeatLstep_succ', repeatLstep_succ']
    exact ih.effLstep

/-- The number of iterations is fixed: the scalar decides none of them (43_ladder.md R157). -/
theorem effLadder (h : s.SameControl t) (ra : Reg) : (effLadder ra s).SameControl (effLadder ra t) := by
  rw [effLadder_eq, effLadder_eq]
  exact (h.effLinit ra).repeatLstep 255

theorem effX25519 (h : s.SameControl t) : (effX25519 s).SameControl (effX25519 t) := by
  rw [effX25519_eq, effX25519_eq]
  exact (((((h.setK _ _).setReg BU _ _).effLadder BU).setReg RES _ _).setReg RES _ _).setObuf _ _

/-- The operands of a command decide the values it writes, never where it writes them. -/
theorem effectOf (h : s.SameControl t) (i : Instr) : (effectOf i s).SameControl (effectOf i t) := by
  cases i with
  | fadd rd _ _ => exact h.setReg rd _ _
  | fsub rd _ _ => exact h.setReg rd _ _
  | fmul rd _ _ => exact h.setReg rd _ _
  | fpow rd _ => exact h.setReg rd _ _
  | finv rd _ => exact h.setReg rd _ _
  | decle => exact h.setK _ _
  | deck => exact h.setK _ _
  | decu rd => exact h.setReg rd _ _
  | enc _ => exact h.setObuf _ _
  | ladd => exact h.setPoint TX TZ _ _
  | lswap => exact h.setR01 _ _
  | ldbl => exact h.setR01 _ _
  | linit ra => exact h.effLinit ra
  | lstep => exact h.effLstep
  | ladder ra => exact h.effLadder ra
  | x25519 => exact h.effX25519

end State.SameControl

/-! ## Steps that differ in data only -/

/-- Where the first answers a next state, so does the second, and the two differ in data only. -/
def ResultsSameControl (r r' : Result) : Prop := ∀ t, r = .next t → ∃ t', r' = .next t' ∧ t.SameControl t'

namespace State.SameControl

variable {s t : State}

theorem next (h : s.SameControl t) : ResultsSameControl (.next s) (.next t) := by
  intro u hu
  cases hu
  exact ⟨t, rfl, h⟩

theorem issue (h : s.SameControl t) (i : Instr) : (issue i s).SameControl (issue i t) := by
  unfold Machine.issue
  rw [← h.check_eq i]
  cases check i s with
  | none => exact h.accept _
  | some c => exact h.raise c _

theorem exec (h : s.SameControl t) (i : Instr) : ResultsSameControl (exec i s) (exec i t) := by
  cases hb : s.busy with
  | true =>
    rw [exec_of_busy hb, exec_of_busy (h.busy_eq ▸ hb)]
    exact (h.effectOf i).finish.next
  | false =>
    rw [exec_of_not_busy hb, exec_of_not_busy (h.busy_eq ▸ hb)]
    exact (h.issue i).next

theorem writeCmd (h : s.SameControl t) (w : Word) : ResultsSameControl (writeCmd w s) (writeCmd w t) := by
  unfold Machine.writeCmd
  cases decode w with
  | error r => exact (h.raise .illegalCommand w).next
  | ok i => exact h.exec i

theorem memWrite (h : s.SameControl t) (addr n : Nat) (v : Word) :
    ResultsSameControl (memWrite addr n v s) (memWrite addr n v t) := by
  have hrefused := (h.answer (r := .error) rfl).next
  unfold Machine.memWrite
  rw [← h.busy_eq, ← h.err_eq]
  split
  · exact hrefused
  split
  · exact ((h.writeCtrl v).answer rfl).next
  split
  · exact hrefused
  split
  · exact ((h.storeBytes addr v n).answer rfl).next
  split
  · split
    · exact hrefused
    · exact (h.answer rfl).writeCmd v
  · exact hrefused

/-- The turn is taken, or passes, by `BUSY` and `CUR` (60_exceptions.md R203). -/
theorem sequencer (h : s.SameControl t) : ResultsSameControl (sequencer s) (sequencer t) := by
  unfold Machine.sequencer
  rw [← h.busy_eq, ← h.cur_eq]
  split
  · cases decode s.cur with
    | ok i => exact h.exec i
    | error r => exact fun u hu => by cases hu
  · exact h.next

theorem perform (h : s.SameControl t) (e : Event) : ResultsSameControl (perform e s) (perform e t) := by
  cases e with
  | read addr n => exact (h.answer (h.memRead_kind addr n)).next
  | write addr n v => exact h.memWrite addr n v
  | resetLine => exact h.resetBlock.next
  | complete => exact h.sequencer

theorem step (h : s.SameControl t) : ResultsSameControl (step s) (step t) := by
  unfold Machine.step turn
  rw [← h.sched_eq]
  cases s.sched with
  | nil => exact h.sequencer
  | cons e rest => exact (h.setSched rest).perform e

end State.SameControl

/-- Settles O57: both states are at the same event and take the same branch of it, with other values. -/
theorem controlIndependentOfData : Obligations.ControlIndependentOfData := by
  unfold Obligations.ControlIndependentOfData
  intro s s' t h hstep
  exact State.SameControl.step h t hstep

end Sys2Proof.Machine
